-- ==== Sys2Proof/Word.lean ====
section
/-! DEFINITION. The word types of the core: bytes of HBUF, 32-bit bus and SHA-256 words, 64-bit hash words
(spec/00_scope.md R8, R10). Every quantity is an unsigned bit string; the arithmetic of R11 is that of `BitVec`. -/

namespace Sys2Proof

/-- A byte of a byte string or of HBUF (R12, R37). -/
abbrev Byte := BitVec 8

/-- A bus word, a register, a command word or a SHA-256 word (R8, R22). -/
abbrev Word32 := BitVec 32

/-- A hash word, seed word, nonce or output: `W` = 64 (R8). -/
abbrev Word64 := BitVec 64

end Sys2Proof
end

