-- ==== Sys2Proof/Machine/Bits.lean ====
section
/-! DEFINITION. Rotations, byte orders and the halves of 64-bit registers (spec/00_scope.md R10 to R12; 10_state.md R36). -/

namespace Sys2Proof.Machine

/-- `rotl64(x, r)` for 1 ≤ r ≤ 63 (00_scope.md R11). -/
def rotl64 (x : Word64) (r : Nat) : Word64 := (x <<< r) ||| (x >>> (64 - r))

/-- `rotr64(x, r)` for 1 ≤ r ≤ 63 (00_scope.md R11). -/
def rotr64 (x : Word64) (r : Nat) : Word64 := (x >>> r) ||| (x <<< (64 - r))

/-- `rotr32(x, r)` for 1 ≤ r ≤ 31 (00_scope.md R11). -/
def rotr32 (x : Word32) (r : Nat) : Word32 := (x >>> r) ||| (x <<< (32 - r))

/-- The number whose bytes are the string, least significant first (00_scope.md R12). -/
def leNat : List Byte → Nat
  | [] => 0
  | b :: bs => b.toNat + 256 * leNat bs

/-- `LE64(s, i)`: the little-endian 64-bit word at byte `i` (00_scope.md R12). -/
def le64 (s : List Byte) (i : Nat) : Word64 := BitVec.ofNat 64 (leNat ((s.drop i).take 8))

/-- `LE32(s, i)`: the little-endian 32-bit word at byte `i` (00_scope.md R12). -/
def le32 (s : List Byte) (i : Nat) : Word32 := BitVec.ofNat 32 (leNat ((s.drop i).take 4))

/-- `BE32(s, i)`: the big-endian 32-bit word at byte `i` (00_scope.md R12). -/
def be32 (s : List Byte) (i : Nat) : Word32 := BitVec.ofNat 32 (leNat ((s.drop i).take 4).reverse)

/-- `bytesLE32(v)`: the 4 bytes of `v`, least significant first (00_scope.md R12). -/
def bytesLE32 (v : Word32) : List Byte :=
  [v.extractLsb' 0 8, v.extractLsb' 8 8, v.extractLsb' 16 8, v.extractLsb' 24 8]

/-- `bytesBE32(v)`: the 4 bytes of `v`, most significant first (00_scope.md R12). -/
def bytesBE32 (v : Word32) : List Byte := (bytesLE32 v).reverse

/-- `bytesLE64(v)`: the 8 bytes of `v`, least significant first (43_digest.md R183). -/
def bytesLE64 (v : Word64) : List Byte := bytesLE32 (v.extractLsb' 0 32) ++ bytesLE32 (v.extractLsb' 32 32)

/-- `bytesBE64(v)`: the 8 bytes of `v`, most significant first (43_digest.md R171). -/
def bytesBE64 (v : Word64) : List Byte := (bytesLE64 v).reverse

/-- Which half of a 64-bit register a 32-bit register is: `_LO` is bits 31:0, `_HI` bits 63:32 (10_state.md R36). -/
inductive Half where
  | lo
  | hi
  deriving DecidableEq, Repr

/-- The half of a 64-bit register that a read of `_LO` or `_HI` returns (10_state.md R36; 20_memory.md R63). -/
def getHalf (v : Word64) : Half → Word32
  | .lo => v.extractLsb' 0 32
  | .hi => v.extractLsb' 32 32

/-- A 64-bit register after a write of `x` to one half: the other half is unchanged (10_state.md R36). -/
def setHalf (v : Word64) (h : Half) (x : Word32) : Word64 :=
  match h with
  | .lo => v.extractLsb' 32 32 ++ x
  | .hi => x ++ v.extractLsb' 0 32

end Sys2Proof.Machine
end

