-- ==== Sys2Proof/Machine/Blake2b.lean ====
section
/-! DEFINITION. BLAKE2b with a 32-byte output (spec/43_digest.md R178 to R183), which the spec gives from its own general
knowledge (93_implementation_defined.md GK9; log entry 17). -/

namespace Sys2Proof.Machine

/-- The initialisation vector (43_digest.md R178). -/
def blakeIv : List Word64 :=
  [ 0x6A09E667F3BCC908, 0xBB67AE8584CAA73B, 0x3C6EF372FE94F82B, 0xA54FF53A5F1D36F1,
    0x510E527FADE682D1, 0x9B05688C2B3E6C1F, 0x1F83D9ABFB41BD6B, 0x5BE0CD19137E2179 ]

/-- The message permutations `SIGMA[0..9]` (43_digest.md R179). -/
def blakeSigma : List (List Nat) :=
  [ [0, 1, 2, 3, 4, 5, 6, 7, 8, 9, 10, 11, 12, 13, 14, 15],
    [14, 10, 4, 8, 9, 15, 13, 6, 1, 12, 0, 2, 11, 7, 5, 3],
    [11, 8, 12, 0, 5, 2, 15, 13, 10, 14, 3, 6, 7, 1, 9, 4],
    [7, 9, 3, 1, 13, 12, 11, 14, 2, 6, 5, 10, 4, 0, 15, 8],
    [9, 0, 5, 7, 2, 4, 10, 15, 14, 1, 11, 12, 6, 8, 3, 13] ] ++
  [ [2, 12, 6, 10, 0, 11, 8, 3, 4, 13, 7, 5, 15, 14, 1, 9],
    [12, 5, 1, 15, 14, 13, 4, 10, 0, 7, 6, 3, 9, 2, 8, 11],
    [13, 11, 7, 14, 12, 1, 3, 9, 5, 0, 15, 4, 8, 6, 2, 10],
    [6, 15, 14, 9, 11, 3, 0, 8, 12, 2, 13, 7, 1, 4, 10, 5],
    [10, 2, 8, 4, 7, 6, 1, 5, 15, 11, 9, 14, 3, 12, 13, 0] ]

/-- The mixing function `G` on positions a, b, c, d of the 16-word vector (43_digest.md R180). -/
def blakeMix (v : List Word64) (a b c d : Nat) (x y : Word64) : List Word64 :=
  let va := v.getD a 0 + v.getD b 0 + x
  let vd := rotr64 (v.getD d 0 ^^^ va) 32
  let vc := v.getD c 0 + vd
  let vb := rotr64 (v.getD b 0 ^^^ vc) 24
  let va := va + vb + y
  let vd := rotr64 (vd ^^^ va) 16
  let vc := vc + vd
  let vb := rotr64 (vb ^^^ vc) 63
  (((v.set a va).set b vb).set c vc).set d vd

/-- One round with the permutation `s`: the eight calls of `G`, in the order written (43_digest.md R181). -/
def blakeRound (m : List Word64) (v : List Word64) (s : List Nat) : List Word64 :=
  let word (i : Nat) : Word64 := m.getD (s.getD i 0) 0
  let v := blakeMix v 0 4 8 12 (word 0) (word 1)
  let v := blakeMix v 1 5 9 13 (word 2) (word 3)
  let v := blakeMix v 2 6 10 14 (word 4) (word 5)
  let v := blakeMix v 3 7 11 15 (word 6) (word 7)
  let v := blakeMix v 0 5 10 15 (word 8) (word 9)
  let v := blakeMix v 1 6 11 12 (word 10) (word 11)
  let v := blakeMix v 2 7 8 13 (word 12) (word 13)
  blakeMix v 3 4 9 14 (word 14) (word 15)

/-- The work vector before the rounds: `h`, then the vector `IV` with the byte counter and the last-block mark folded in
(43_digest.md R181). -/
def blakeInitVector (h : List Word64) (t : Nat) (last : Bool) : List Word64 :=
  let v := h ++ blakeIv
  let v := v.set 12 (v.getD 12 0 ^^^ BitVec.ofNat 64 t)
  let v := v.set 13 (v.getD 13 0 ^^^ BitVec.ofNat 64 (t >>> 64))
  if last then v.set 14 (v.getD 14 0 ^^^ 0xFFFFFFFFFFFFFFFF) else v

/-- The compression `F(h, m, t, last)`: 12 rounds, round `r` with `SIGMA[r mod 10]` (43_digest.md R181). -/
def blakeCompress (h m : List Word64) (t : Nat) (last : Bool) : List Word64 :=
  let v := (List.range 12).foldl (fun v r => blakeRound m v (blakeSigma.getD (r % 10) [])) (blakeInitVector h t last)
  (List.range 8).map fun i => h.getD i 0 ^^^ v.getD i 0 ^^^ v.getD (i + 8) 0

/-- The 16 message words of block `j`, the block padded with zero bytes to 128 (43_digest.md R182). -/
def blakeBlock (m : List Byte) (j : Nat) : List Word64 :=
  let blk := (m.drop (128 * j)).take 128
  let blk := blk ++ List.replicate (128 - blk.length) 0
  (List.range 16).map fun i => le64 blk (8 * i)

/-- The number of blocks, at least 1 (43_digest.md R182). -/
def blakeBlocks (len : Nat) : Nat := max 1 ((len + 127) / 128)

/-- The chaining value before the first block: the vector `IV` with the parameter word 0x0101_0020 in word 0
(43_digest.md R182). -/
def blakeStart : List Word64 := blakeIv.set 0 (blakeIv.getD 0 0 ^^^ 0x01010020)

/-- The chaining value after all blocks (43_digest.md R182). -/
def blakeHashWords (m : List Byte) : List Word64 :=
  let n := blakeBlocks m.length
  (List.range n).foldl
    (fun h j => blakeCompress h (blakeBlock m j) (min m.length (128 * (j + 1))) (j == n - 1)) blakeStart

/-- BLAKE2b-256: the first 32 bytes of the chaining value, least significant first (43_digest.md R183). -/
def blake2b256 (m : List Byte) : List Byte :=
  let h := blakeHashWords m
  bytesLE64 (h.getD 0 0) ++ bytesLE64 (h.getD 1 0) ++ bytesLE64 (h.getD 2 0) ++ bytesLE64 (h.getD 3 0)

end Sys2Proof.Machine
end

