-- ==== Sys2Proof/Machine/Sha256.lean ====
section
/-! DEFINITION. SHA-256 (spec/43_digest.md R171 to R177), which the spec gives from its own general knowledge
(93_implementation_defined.md GK8; log entry 17). -/

namespace Sys2Proof.Machine

/-- The eight hash words `H[0..7]`, or the working words a..h (43_digest.md R173, R176). -/
structure ShaWords where
  a : Word32
  b : Word32
  c : Word32
  d : Word32
  e : Word32
  f : Word32
  g : Word32
  h : Word32
  deriving DecidableEq, Repr

/-- The round constants (43_digest.md R172). -/
def shaConstants : List Word32 :=
  [ 0x428A2F98, 0x71374491, 0xB5C0FBCF, 0xE9B5DBA5, 0x3956C25B, 0x59F111F1, 0x923F82A4, 0xAB1C5ED5,
    0xD807AA98, 0x12835B01, 0x243185BE, 0x550C7DC3, 0x72BE5D74, 0x80DEB1FE, 0x9BDC06A7, 0xC19BF174,
    0xE49B69C1, 0xEFBE4786, 0x0FC19DC6, 0x240CA1CC, 0x2DE92C6F, 0x4A7484AA, 0x5CB0A9DC, 0x76F988DA,
    0x983E5152, 0xA831C66D, 0xB00327C8, 0xBF597FC7, 0xC6E00BF3, 0xD5A79147, 0x06CA6351, 0x14292967 ] ++
  [ 0x27B70A85, 0x2E1B2138, 0x4D2C6DFC, 0x53380D13, 0x650A7354, 0x766A0ABB, 0x81C2C92E, 0x92722C85,
    0xA2BFE8A1, 0xA81A664B, 0xC24B8B70, 0xC76C51A3, 0xD192E819, 0xD6990624, 0xF40E3585, 0x106AA070,
    0x19A4C116, 0x1E376C08, 0x2748774C, 0x34B0BCB5, 0x391C0CB3, 0x4ED8AA4A, 0x5B9CCA4F, 0x682E6FF3,
    0x748F82EE, 0x78A5636F, 0x84C87814, 0x8CC70208, 0x90BEFFFA, 0xA4506CEB, 0xBEF9A3F7, 0xC67178F2 ]

/-- The initial hash value (43_digest.md R173). -/
def shaInit : ShaWords :=
  ⟨0x6A09E667, 0xBB67AE85, 0x3C6EF372, 0xA54FF53A, 0x510E527F, 0x9B05688C, 0x1F83D9AB, 0x5BE0CD19⟩

/-- `Ch` (43_digest.md R174). -/
def shaCh (e f g : Word32) : Word32 := (e &&& f) ^^^ (~~~e &&& g)

/-- `Maj` (43_digest.md R174). -/
def shaMaj (a b c : Word32) : Word32 := (a &&& b) ^^^ (a &&& c) ^^^ (b &&& c)

/-- `Σ0` (43_digest.md R174). -/
def shaBigSigma0 (a : Word32) : Word32 := rotr32 a 2 ^^^ rotr32 a 13 ^^^ rotr32 a 22

/-- `Σ1` (43_digest.md R174). -/
def shaBigSigma1 (e : Word32) : Word32 := rotr32 e 6 ^^^ rotr32 e 11 ^^^ rotr32 e 25

/-- `σ0` (43_digest.md R174). -/
def shaSmallSigma0 (x : Word32) : Word32 := rotr32 x 7 ^^^ rotr32 x 18 ^^^ (x >>> 3)

/-- `σ1` (43_digest.md R174). -/
def shaSmallSigma1 (x : Word32) : Word32 := rotr32 x 17 ^^^ rotr32 x 19 ^^^ (x >>> 10)

/-- The message padded to whole blocks: 0x80, zeros, and the bit length in 8 bytes (43_digest.md R171). The zeros are the
least number that brings the length to 56 modulo 64. -/
def shaPad (m : List Byte) : List Byte :=
  m ++ [0x80] ++ List.replicate ((119 - m.length % 64) % 64) 0 ++ bytesBE64 (BitVec.ofNat 64 (8 * m.length))

/-- The 16 words of block `j` of the padded message (43_digest.md R171). -/
def shaBlock (p : List Byte) (j : Nat) : List Word32 := (List.range 16).map fun t => be32 p (64 * j + 4 * t)

/-- The schedule extended by `count` words; the list holds the newest word first, so that `W[t-2]`, `W[t-7]`, `W[t-15]`
and `W[t-16]` stand at positions 1, 6, 14 and 15 (43_digest.md R175). -/
def shaExtend : (count : Nat) → List Word32 → List Word32
  | 0, w => w
  | count + 1, w =>
    shaExtend count
      ((shaSmallSigma1 (w.getD 1 0) + w.getD 6 0 + shaSmallSigma0 (w.getD 14 0) + w.getD 15 0) :: w)

/-- The 64 schedule words `W[0..63]` of a block (43_digest.md R175). -/
def shaSchedule (block : List Word32) : List Word32 := (shaExtend 48 block.reverse).reverse

/-- One round with the constant `K[t]` and the schedule word `W[t]` (43_digest.md R176). -/
def shaRound (s : ShaWords) (kw : Word32 × Word32) : ShaWords :=
  let t1 := s.h + shaBigSigma1 s.e + shaCh s.e s.f s.g + kw.1 + kw.2
  let t2 := shaBigSigma0 s.a + shaMaj s.a s.b s.c
  ⟨t1 + t2, s.a, s.b, s.c, s.d + t1, s.e, s.f, s.g⟩

/-- The compression of one block into the hash words (43_digest.md R176). -/
def shaCompress (H : ShaWords) (block : List Word32) : ShaWords :=
  let r := (shaConstants.zip (shaSchedule block)).foldl shaRound H
  ⟨H.a + r.a, H.b + r.b, H.c + r.c, H.d + r.d, H.e + r.e, H.f + r.f, H.g + r.g, H.h + r.h⟩

/-- The hash words after all blocks, in order (43_digest.md R176). -/
def shaHashWords (m : List Byte) : ShaWords :=
  let p := shaPad m
  (List.range (p.length / 64)).foldl (fun H j => shaCompress H (shaBlock p j)) shaInit

/-- SHA-256: the hash words, each most significant byte first (43_digest.md R177). -/
def sha256 (m : List Byte) : List Byte :=
  let H := shaHashWords m
  bytesBE32 H.a ++ bytesBE32 H.b ++ bytesBE32 H.c ++ bytesBE32 H.d
    ++ bytesBE32 H.e ++ bytesBE32 H.f ++ bytesBE32 H.g ++ bytesBE32 H.h

end Sys2Proof.Machine
end

