-- ==== Sys2Proof/Config.lean ====
section
/-! DEFINITION. The build parameters (spec/00_scope.md R8) and the free values (spec/93_implementation_defined.md U1, U2). -/

namespace Sys2Proof

/-- `DIGEST_ALG`, the 256-bit digest SEED uses (00_scope.md R8; 43_digest.md R170). -/
inductive DigestAlg where
  /-- Encoding 0, the default. -/
  | sha256
  /-- Encoding 1. -/
  | blake2b256
  deriving DecidableEq, Repr

/-- The build parameters a rule depends on (00_scope.md R8). `LAT` is not among them: no rule depends on it (R116).
Every value of this type is a legal build: `HBUF_SIZE` is a multiple of 4 in 4..4096. -/
structure Build where
  /-- `DIGEST_ALG`. -/
  digestAlg : DigestAlg
  /-- The index of the last HBUF word, so that `HBUF_SIZE = 4 * (hbufLastWord + 1)`. -/
  hbufLastWord : Fin 1024
  deriving DecidableEq, Repr

/-- `HBUF_SIZE`, the number of bytes of the header buffer (00_scope.md R8). -/
def Build.hbufSize (b : Build) : Nat := 4 * (b.hbufLastWord.val + 1)

/-- The default build: SHA256 and 512 bytes (00_scope.md R8). -/
def Build.default : Build := ⟨.sha256, 127⟩

/-- The free values: the byte that the `n`-th draw gives. It has no body, so a claim holds whatever the bytes are
(93_implementation_defined.md U1, U2; DESIGN CHOICE, log entries 4 and 5). -/
opaque Config.freeByte : Nat → Byte

end Sys2Proof
end

