-- ==== Sys2Proof/Machine/State.lean ====
section
/-! DEFINITION. The state of the core (spec/10_state.md R20 to R42), the inputs still to come, and the state after reset. -/

namespace Sys2Proof.Machine

/-- The four seed words `K0`..`K3` (10_state.md R27). -/
structure Keys where
  k0 : Word64
  k1 : Word64
  k2 : Word64
  k3 : Word64
  deriving DecidableEq, Repr

/-- The digest registers `DIGEST0`..`DIGEST7` (10_state.md R34). -/
structure DigestRegs where
  d0 : Word32
  d1 : Word32
  d2 : Word32
  d3 : Word32
  d4 : Word32
  d5 : Word32
  d6 : Word32
  d7 : Word32
  deriving DecidableEq, Repr

/-- HBUF as the bytes that hold a value, with their index in HBUF (10_state.md R37). An unlisted byte holds no value. -/
abbrev Memory := List Host.Cell

/-- The operands the engine uses, copied at acceptance (40_commands.md R112). -/
structure Snapshot where
  /-- The command word. -/
  w : Word32
  keys : Keys
  nonce : Word64
  edgeBits : BitVec 6
  hlen : BitVec 16
  hnonce : Word32
  /-- For SEED the bytes `hbuf[0 .. HLEN)`, `none` for a byte that holds no value; empty for the other commands (R38). -/
  hbuf : List (Option Byte)
  deriving DecidableEq, Repr

/-- The engine phase (10_state.md R38; 40_commands.md R110). -/
inductive Phase where
  | idle
  | busy (snap : Snapshot)
  deriving DecidableEq, Repr

/-- The error codes of STATUS.ERRCODE; codes 4..15 are never produced (60_exceptions.md R221). -/
inductive ErrCode where
  | success
  | illegalCmd
  | badRot
  | badHlen
  deriving DecidableEq, Repr

/-- The width of a bus access. Only `word` is legal (20_memory.md R61); the others get a bus error (R64). -/
inductive AccessSize where
  | byte
  | half
  | word
  | double
  | burst
  deriving DecidableEq, Repr

/-- One bus access of the host, at a byte offset within the core (20_memory.md R60, R61). -/
inductive Access where
  | read (size : AccessSize) (off : BitVec 13)
  | write (size : AccessSize) (off : BitVec 13) (data : Word32)
  deriving DecidableEq, Repr

/-- One input of the machine: which agent moves, and what the host or the platform does (00_scope.md R9; 20_memory.md R70;
DESIGN CHOICE, log entry 2). -/
inductive Event where
  /-- The host issues a bus access. -/
  | host (a : Access)
  /-- The engine's turn: the completion step, if the phase is BUSY (40_commands.md R115). -/
  | engine
  /-- The platform asserts `rst_n` (70_reset_and_hazards.md R260; log entry 12). -/
  | rstN
  deriving DecidableEq, Repr

/-- The bus response codes (20_memory.md R64). -/
inductive BusCode where
  | okay
  | error
  deriving DecidableEq, Repr

/-- The answer to a bus access: its code and, for a read, its data (20_memory.md R64). The data of a write is 0 and means
nothing. -/
structure Response where
  code : BusCode
  data : Word32
  deriving DecidableEq, Repr

/-- A fault of the HOST PROGRAM, in the words of the spec: none of them stops the core (60_exceptions.md R220). The step
in which one happens reports it in `State.hostFault`. -/
inductive HostFault where
  /-- A bus error, with the size and the offset of the access (20_memory.md R64). -/
  | busError (size : AccessSize) (off : BitVec 13)
  /-- A write to a busy-locked location while BUSY, with its offset (20_memory.md R71; U18). -/
  | droppedWrite (off : BitVec 13)
  /-- A command that completed with an error (60_exceptions.md R221, R222). -/
  | commandError (c : ErrCode)
  /-- A SEED that digested a byte no host write has reached since reset (70_reset_and_hazards.md R268; U2). -/
  | unwrittenHeader
  deriving DecidableEq, Repr

/-- Why a step stops. The core itself never stops (60_exceptions.md R220). -/
inductive Fault where
  /-- Raised by the completion step when the phase is BUSY with a snapshot whose word decodes to no command. The spec
  gives no such step (40_commands.md R115) and no run reaches such a state, so stopping is SAFE (log entry 9). -/
  | snapshotIllegal (w : Word32)
  deriving DecidableEq, Repr

/-- Why a step has no meaning. -/
inductive Refusal where
  /-- An instruction that is not modelled. No arm answers with it: every command has its meaning. SAFE. -/
  | notModelled (mnemonic : String)
  deriving DecidableEq, Repr

/-- The state: the core's registers, buffer and engine phase (10_state.md R20), and the model's own fields. -/
structure State where
  /-- MODEL: the build parameters that CAPS reports; no step changes them (00_scope.md R8; log entry 1). -/
  build : Build
  /-- CTRL.IE (10_state.md R24). -/
  ie : Bool
  /-- STATUS.DONE (10_state.md R25). -/
  done : Bool
  /-- STATUS.ERR (10_state.md R25). -/
  err : Bool
  /-- STATUS.WERR (10_state.md R25). -/
  werr : Bool
  /-- STATUS.ERRCODE (10_state.md R25). -/
  errcode : BitVec 4
  /-- CMD: the last accepted command word (10_state.md R26). -/
  cmd : Word32
  /-- K0..K3 (10_state.md R27). -/
  keys : Keys
  /-- NONCE (10_state.md R28). -/
  nonce : Word64
  /-- EDGE_BITS (10_state.md R29). -/
  edgeBits : BitVec 6
  /-- HLEN (10_state.md R31). -/
  hlen : BitVec 16
  /-- HNONCE (10_state.md R32). -/
  hnonce : Word32
  /-- OUT (10_state.md R33). -/
  out : Word64
  /-- DIGEST0..DIGEST7 (10_state.md R34). -/
  digest : DigestRegs
  /-- HBUF (10_state.md R37). -/
  hbuf : Memory
  /-- The engine phase; STATUS.BUSY is 1 exactly when it is BUSY (10_state.md R38). -/
  phase : Phase
  /-- MODEL: the inputs still to come, first one first (log entry 2). -/
  events : List Event
  /-- MODEL: the bus response to the host access of the last step, if it was one (20_memory.md R64; log entry 7). -/
  response : Option Response
  /-- MODEL: the fault of the host program in the last step, if there was one (60_exceptions.md R220; log entry 8). -/
  hostFault : Option HostFault
  /-- MODEL: how many free values have been drawn (log entry 4). -/
  draws : Nat
  deriving DecidableEq, Repr

/-- The state after reset of the build `b`: the values of 10_state.md R42; HBUF holds no value and the engine is IDLE. -/
def State.resetOf (b : Build) : State :=
  { build := b, ie := false, done := false, err := false, werr := false, errcode := 0, cmd := 0,
    keys := ⟨0, 0, 0, 0⟩, nonce := 0, edgeBits := 0, hlen := 0, hnonce := 0, out := 0,
    digest := ⟨0, 0, 0, 0, 0, 0, 0, 0⟩, hbuf := [], phase := .idle,
    events := [], response := none, hostFault := none, draws := 0 }

/-- The machine right after reset, of the default build (00_scope.md R8; 10_state.md R42). -/
def State.reset : State := State.resetOf Build.default

end Sys2Proof.Machine
end

