-- ==== Sys2Proof/Machine/Digest.lean ====
section
/-! DEFINITION. The 256-bit digest of SEED and its split into the seed words (spec/43_digest.md R170; 44_graphparams.md
R202; 10_state.md R34). -/

namespace Sys2Proof.Machine

/-- `DIGEST256(m)`, 32 bytes, by the algorithm of the build (43_digest.md R170). -/
def digest256 : DigestAlg → List Byte → List Byte
  | .sha256, m => sha256 m
  | .blake2b256, m => blake2b256 m

/-- The seed words of a digest: `Kj = LE64(d, 8j)` (44_graphparams.md R202). -/
def seedKeys (d : List Byte) : Keys := ⟨le64 d 0, le64 d 8, le64 d 16, le64 d 24⟩

/-- The digest registers of a digest: `DIGESTw = LE32(d, 4w)` (44_graphparams.md R202; 10_state.md R34). -/
def seedDigestRegs (d : List Byte) : DigestRegs :=
  ⟨le32 d 0, le32 d 4, le32 d 8, le32 d 12, le32 d 16, le32 d 20, le32 d 24, le32 d 28⟩

end Sys2Proof.Machine
end

