-- ==== Sys2Proof/Syntax.lean ====
section
/-! DEFINITION. The five commands, one constructor per row of spec/opcode_table.json (spec/30_encoding.md R92, R93). -/

namespace Sys2Proof

/-- A command, with the free fields of its encoding as operands (30_encoding.md R91, R93). -/
inductive Instr where
  /-- NOP: no operation, completes at acceptance (40_commands.md R117). -/
  | nop
  /-- SIPHASH: KeyedHash of one nonce; `rot` is the field ROT (41_keyedhash.md R133). -/
  | siphash (rot : BitVec 8)
  /-- SIPBLOCK: BlockHash of one nonce; `rot` is ROT and `xa` is XA, the argument `xor_all` (42_blockhash.md R152). -/
  | sipblock (rot : BitVec 8) (xa : Bool)
  /-- SIPNODE: one graph endpoint; `uorv` is UORV and `sh` is SH, the argument `shift` (44_graphparams.md R205). -/
  | sipnode (uorv : Bool) (sh : Bool)
  /-- SEED: derive the seed from the header; `ne` is NE, the nonce is present (44_graphparams.md R203). -/
  | seed (ne : Bool)
  deriving DecidableEq, Repr

end Sys2Proof
end

