-- ==== Sys2Proof/WellFormed.lean ====
section
/-! DEFINITION. The commands whose operands are in the range the spec calls legal. A command outside it still has an
encoding and a meaning: it is rejected at acceptance with BAD_ROT (spec/30_encoding.md R97, R101). -/

namespace Sys2Proof

/-- The legal rotation amounts of SIPHASH and SIPBLOCK are 1..63 (00_scope.md R8 `ROTW`; 30_encoding.md R95). -/
def legalRotation (rot : BitVec 8) : Bool :=
  decide (1 ≤ rot.toNat) && decide (rot.toNat ≤ 63)

/-- Every operand of the command is in its legal range (30_encoding.md R95, R101). -/
def Instr.wellFormed : Instr → Bool
  | .nop => true
  | .siphash rot => legalRotation rot
  | .sipblock rot _ => legalRotation rot
  | .sipnode _ _ => true
  | .seed _ => true

end Sys2Proof
end

