-- ==== Sys2Proof/Decode.lean ====
section
/-! DEFINITION. Decoding a command word and encoding a command (spec/30_encoding.md R90 to R98, R101). -/

namespace Sys2Proof

/-- Why a word is illegal (30_encoding.md R98): the three grounds the rule lists. -/
inductive DecodeError where
  /-- OP is in 0x5..0xF. -/
  | reservedOpcode
  /-- OP is in 0x0..0x4 and RSV, bits 31:16, is not 0. -/
  | reservedBits
  /-- OP is in 0x0..0x4, RSV is 0, and a field the opcode does not use is not 0. -/
  | unusedField
  deriving DecidableEq, Repr

/-- A row of the opcode map: what its words are masked with, what they must then equal, and the command that the
free fields make (30_encoding.md R93). -/
structure OpcodeRow where
  mask : Word32
  bits : Word32
  read : Word32 → Instr

/-- The field OP, bits 3:0 (30_encoding.md R91). -/
def fieldOp (w : Word32) : BitVec 4 := w.extractLsb' 0 4

/-- The field ROT, bits 15:8, used as it stands (30_encoding.md R91, R95). -/
def fieldRot (w : Word32) : BitVec 8 := w.extractLsb' 8 8

/-- The field XA, bit 4 (30_encoding.md R91, R96). -/
def fieldXa (w : Word32) : Bool := w.getLsbD 4

/-- The field UORV, bit 5 (30_encoding.md R91, R96). -/
def fieldUorv (w : Word32) : Bool := w.getLsbD 5

/-- The field SH, bit 6 (30_encoding.md R91, R96). -/
def fieldSh (w : Word32) : Bool := w.getLsbD 6

/-- The field NE, bit 7 (30_encoding.md R91, R96). -/
def fieldNe (w : Word32) : Bool := w.getLsbD 7

/-- The field RSV, bits 31:16 (30_encoding.md R91). -/
def fieldRsv (w : Word32) : BitVec 16 := w.extractLsb' 16 16

/-- The five rows of 30_encoding.md R93, in its order. -/
def opcodeRows : List OpcodeRow :=
  [ ⟨0xFFFFFFFF, 0x00000000, fun _ => .nop⟩,
    ⟨0xFFFF00FF, 0x00000001, fun w => .siphash (fieldRot w)⟩,
    ⟨0xFFFF00EF, 0x00000002, fun w => .sipblock (fieldRot w) (fieldXa w)⟩,
    ⟨0xFFFFFF9F, 0x00000003, fun w => .sipnode (fieldUorv w) (fieldSh w)⟩,
    ⟨0xFFFFFF7F, 0x00000004, fun w => .seed (fieldNe w)⟩ ]

/-- The ground on which a word that matches no row is illegal (30_encoding.md R98). -/
def illegalReason (w : Word32) : DecodeError :=
  if 5 ≤ (fieldOp w).toNat then .reservedOpcode
  else if fieldRsv w ≠ 0 then .reservedBits
  else .unusedField

/-- Decoding is total: the first row that matches, or ILLEGAL with its ground (30_encoding.md R94). -/
def decode (w : Word32) : Except DecodeError Instr :=
  match opcodeRows.find? (fun r => w &&& r.mask == r.bits) with
  | some r => .ok (r.read w)
  | none => .error (illegalReason w)

/-- A command word from its fields (30_encoding.md R91); RSV is 0. -/
def assembleFields (op : BitVec 4) (rot : BitVec 8) (xa uorv sh ne : Bool) : Word32 :=
  (0 : BitVec 16) ++ rot ++ BitVec.ofBool ne ++ BitVec.ofBool sh ++ BitVec.ofBool uorv ++ BitVec.ofBool xa ++ op

/-- The word of a command: every field it does not use is 0 (30_encoding.md R93, R101). -/
def encode : Instr → Word32
  | .nop => assembleFields 0 0 false false false false
  | .siphash rot => assembleFields 1 rot false false false false
  | .sipblock rot xa => assembleFields 2 rot xa false false false
  | .sipnode uorv sh => assembleFields 3 0 false uorv sh false
  | .seed ne => assembleFields 4 0 false false false ne

/-- The command that `decode` reads from the word `w` as spec/opcode_table.json numbers its bits; the table gives every row
32 bits (30_encoding.md R90), and bits from `nbits` up are 0. A number that is no 32-bit word is refused. -/
def decodeTableWord (nbits w : Nat) : Option Instr :=
  if w % 2 ^ nbits < 2 ^ 32 then
    match decode (BitVec.ofNat 32 (w % 2 ^ nbits)) with
    | .ok i => some i
    | .error _ => none
  else none

end Sys2Proof
end

