-- ==== Sys2Proof/Machine/RegisterMap.lean ====
section
/-! DEFINITION. The register map of the core (spec/10_state.md R22) and the access rights of its locations. -/

namespace Sys2Proof.Machine

/-- A 32-bit location of the map, under its name in 30_encoding.md R103. -/
inductive Loc where
  | id
  | caps
  | ctrl
  | status
  | cmd
  | key (j : Fin 4) (h : Half)
  | nonce (h : Half)
  | edgeBits
  | edgeMask (h : Half)
  | hlen
  | hnonce
  | out (h : Half)
  | digest (w : Fin 8)
  /-- HBUF word `j`, header bytes `4j..4j+3`. -/
  | hbuf (j : Nat)
  deriving DecidableEq, Repr

/-- The registers and their offsets, row by row (10_state.md R22). Every other offset below 0x1000 is reserved. -/
def registerMap : List (Nat × Loc) :=
  [ (0x000, .id), (0x004, .caps), (0x008, .ctrl), (0x00C, .status), (0x010, .cmd),
    (0x020, .key 0 .lo), (0x024, .key 0 .hi), (0x028, .key 1 .lo), (0x02C, .key 1 .hi),
    (0x030, .key 2 .lo), (0x034, .key 2 .hi), (0x038, .key 3 .lo), (0x03C, .key 3 .hi),
    (0x040, .nonce .lo), (0x044, .nonce .hi), (0x048, .edgeBits),
    (0x050, .edgeMask .lo), (0x054, .edgeMask .hi), (0x058, .hlen), (0x05C, .hnonce),
    (0x060, .out .lo), (0x064, .out .hi),
    (0x080, .digest 0), (0x084, .digest 1), (0x088, .digest 2), (0x08C, .digest 3),
    (0x090, .digest 4), (0x094, .digest 5), (0x098, .digest 6), (0x09C, .digest 7) ]

/-- The offset of HBUF word 0 (10_state.md R22, R37). -/
abbrev hbufBase : Nat := 0x1000

/-- The location at a byte offset, or `none` where the access gets a bus error: a misaligned offset, or a reserved one,
HBUF words from `HBUF_SIZE` up among them (10_state.md R22; 20_memory.md R64). -/
def locate (b : Build) (off : BitVec 13) : Option Loc :=
  if off.toNat % 4 ≠ 0 then none
  else if off.toNat < hbufBase then registerMap.lookup off.toNat
  else if off.toNat < hbufBase + b.hbufSize then some (.hbuf ((off.toNat - hbufBase) / 4))
  else none

/-- The locations whose writes are dropped while BUSY (10_state.md R22; 20_memory.md R71). -/
def Loc.busyLocked : Loc → Bool
  | .cmd | .key _ _ | .nonce _ | .edgeBits | .hlen | .hnonce | .hbuf _ => true
  | .id | .caps | .ctrl | .status | .edgeMask _ | .out _ | .digest _ => false

/-- The read-only locations, whose writes are accepted and change nothing (10_state.md R35). -/
def Loc.readOnly : Loc → Bool
  | .id | .caps | .edgeMask _ | .out _ | .digest _ => true
  | .ctrl | .status | .cmd | .key _ _ | .nonce _ | .edgeBits | .hlen | .hnonce | .hbuf _ => false

/-- The seed word `Kj` (10_state.md R27). -/
def Keys.get (k : Keys) : Fin 4 → Word64
  | 0 => k.k0
  | 1 => k.k1
  | 2 => k.k2
  | 3 => k.k3

/-- The seed words after a write of `Kj` (10_state.md R27). -/
def Keys.set (k : Keys) (j : Fin 4) (v : Word64) : Keys :=
  match j with
  | 0 => { k with k0 := v }
  | 1 => { k with k1 := v }
  | 2 => { k with k2 := v }
  | 3 => { k with k3 := v }

/-- The digest register `DIGESTw` (10_state.md R34). -/
def DigestRegs.get (d : DigestRegs) : Fin 8 → Word32
  | 0 => d.d0
  | 1 => d.d1
  | 2 => d.d2
  | 3 => d.d3
  | 4 => d.d4
  | 5 => d.d5
  | 6 => d.d6
  | 7 => d.d7

end Sys2Proof.Machine
end

