-- ==== Sys2Proof/Machine/Flags.lean ====
section
/-! DEFINITION. The status flags, CTRL, CAPS and the interrupt output (spec/10_state.md R23 to R25, R40, R41). No command
sets a flag from its result: there is no arithmetic flag (R41). -/

namespace Sys2Proof.Machine

/-- The constant of the register ID (00_scope.md R3). -/
def idValue : Word32 := 0x53495024

/-- The code of `DIGEST_ALG` in CAPS bits 1:0 (10_state.md R23). -/
def digestAlgCode : DigestAlg → BitVec 2
  | .sha256 => 0
  | .blake2b256 => 1

/-- The register CAPS: HBUF_SIZE, BLOCK = 64, reserved, DIGEST_ALG (10_state.md R23). -/
def capsWord (b : Build) : Word32 :=
  BitVec.ofNat 16 b.hbufSize ++ (64 : BitVec 8) ++ (0 : BitVec 6) ++ digestAlgCode b.digestAlg

/-- The 4-bit code of an error (60_exceptions.md R221). -/
def ErrCode.code : ErrCode → BitVec 4
  | .success => 0
  | .illegalCmd => 1
  | .badRot => 2
  | .badHlen => 3

/-- STATUS.BUSY is 1 exactly when the phase is BUSY (10_state.md R38). -/
def Phase.isBusy : Phase → Bool
  | .idle => false
  | .busy _ => true

/-- The register STATUS: ERRCODE 7:4, WERR 3, ERR 2, DONE 1, BUSY 0, the rest 0 (10_state.md R25). -/
def State.statusWord (s : State) : Word32 :=
  (0 : BitVec 24) ++ s.errcode ++ BitVec.ofBool s.werr ++ BitVec.ofBool s.err ++ BitVec.ofBool s.done
    ++ BitVec.ofBool s.phase.isBusy

/-- The register CTRL: IE in bit 0, SRST reads 0 (10_state.md R24). -/
def State.ctrlWord (s : State) : Word32 := (0 : BitVec 31) ++ BitVec.ofBool s.ie

/-- The interrupt output, in every cycle `CTRL.IE & STATUS.DONE` (10_state.md R40; 60_exceptions.md R226). -/
def State.irq (s : State) : Bool := s.ie && s.done

/-- A write to STATUS: each W1C bit whose written bit is 1 is cleared, and nothing else changes (10_state.md R25).
It is how the host acknowledges an error or a completion: the core's return from an error (60_exceptions.md R228). -/
def State.writeStatus (v : Word32) (s : State) : State :=
  { s with
    done := s.done && !v.getLsbD 1
    err := s.err && !v.getLsbD 2
    werr := s.werr && !v.getLsbD 3 }

end Sys2Proof.Machine
end

