-- ==== Sys2Proof/Machine/Operands.lean ====
section
/-! DEFINITION. The operands of the commands and the checks made on them (spec/30_encoding.md R95 to R97;
44_graphparams.md R200 to R203; 20_memory.md R66 to R68). -/

namespace Sys2Proof.Machine

/-- The rotation check of SIPHASH and SIPBLOCK: 1 ≤ ROT ≤ 63 (30_encoding.md R97). -/
def rotLegal (rot : BitVec 8) : Bool := decide (1 ≤ rot.toNat) && decide (rot.toNat ≤ 63)

/-- The length check of SEED: `HLEN ≤ HBUF_SIZE`, and with a nonce `HLEN ≥ 4` (44_graphparams.md R203). -/
def hlenLegal (b : Build) (hlen : BitVec 16) (ne : Bool) : Bool :=
  decide (hlen.toNat ≤ b.hbufSize) && (!ne || decide (4 ≤ hlen.toNat))

/-- `EDGE_MASK = 2^EDGE_BITS − 1`, 64 bits (10_state.md R30; 44_graphparams.md R200). -/
def edgeMask (edgeBits : BitVec 6) : Word64 := ((1 : Word64) <<< edgeBits.toNat) - 1

/-- The value of a one-bit field as a 64-bit number (30_encoding.md R96). -/
def bit64 (b : Bool) : Word64 := if b then 1 else 0

/-- The byte at an index of HBUF: `none` where no host write has reached it since reset (10_state.md R37). -/
def Memory.read : Memory → Nat → Option Byte
  | [], _ => none
  | (a, b) :: rest, i => if a = i then some b else Memory.read rest i

/-- The bytes of HBUF from index `addr`, `n` of them (20_memory.md R66). -/
def Memory.readBytes (m : Memory) (addr n : Nat) : List (Option Byte) :=
  (List.range n).map fun k => m.read (addr + k)

/-- The bytes with each one that holds no value replaced by the free value its position draws
(93_implementation_defined.md U1; DESIGN CHOICE, log entries 4 and 5). -/
def fillFree : Nat → List (Option Byte) → List Byte
  | _, [] => []
  | n, some b :: rest => b :: fillFree (n + 1) rest
  | n, none :: rest => Config.freeByte n :: fillFree (n + 1) rest

/-- The draw counter after the bytes are read: it moves past them if one of them held no value (log entry 4). -/
def drawsAfter (n : Nat) (bytes : List (Option Byte)) : Nat :=
  if bytes.all Option.isSome then n else n + bytes.length

/-- The word of the command SEED has OP = 4 (30_encoding.md R92). -/
def isSeedWord (w : Word32) : Bool := fieldOp w == 4

/-- The snapshot of the operands for the command word `w`; only SEED takes header bytes (40_commands.md R112;
10_state.md R38). -/
def State.takeSnapshot (w : Word32) (s : State) : Snapshot :=
  { w := w, keys := s.keys, nonce := s.nonce, edgeBits := s.edgeBits, hlen := s.hlen, hnonce := s.hnonce,
    hbuf := if isSeedWord w then s.hbuf.readBytes 0 s.hlen.toNat else [] }

/-- The digest input of SEED: the header, with HNONCE over its last 4 bytes when a nonce is present; a byte that holds no
value is `none` (44_graphparams.md R201). The length stays HLEN. -/
def seedInput (snap : Snapshot) (ne : Bool) : List (Option Byte) :=
  if ne then snap.hbuf.take (snap.hlen.toNat - 4) ++ (bytesLE32 snap.hnonce).map some
  else snap.hbuf

end Sys2Proof.Machine
end

