-- ==== Sys2Proof/Machine/Ops.lean ====
section
/-! DEFINITION. The operations every command and every bus access is made of: HBUF writes, register reads and writes,
the acceptance of a command, its completion, the entry to an error, and reset. -/

namespace Sys2Proof.Machine

/-! ### HBUF -/

/-- HBUF after the byte at index `i` is written: the list keeps its indices strictly rising (10_state.md R37;
20_memory.md R67). -/
def Memory.write : Memory → Nat → Byte → Memory
  | [], i, v => [(i, v)]
  | (a, b) :: rest, i, v =>
    if i < a then (i, v) :: (a, b) :: rest
    else if i = a then (a, v) :: rest
    else (a, b) :: Memory.write rest i v

/-- HBUF after word `j` is written: byte `4j + i` becomes `v[8i+7:8i]` (20_memory.md R67). -/
def Memory.writeWord (m : Memory) (j : Nat) (v : Word32) : Memory :=
  (((m.write (4 * j) (v.extractLsb' 0 8)).write (4 * j + 1) (v.extractLsb' 8 8)).write (4 * j + 2)
    (v.extractLsb' 16 8)).write (4 * j + 3) (v.extractLsb' 24 8)

/-- The canonical form of HBUF: indices strictly rising. An unlisted byte holds no value, so no entry equals what an
unlisted index reads as. -/
def Memory.wf (m : Memory) : Bool := decide (m.Pairwise fun x y => x.1 < y.1)

/-- HBUF word `j` as a host read returns it, a byte that holds no value drawn free (20_memory.md R67; log entry 4). -/
def State.hbufWord (s : State) (j : Nat) : Word32 := le32 (fillFree s.draws (s.hbuf.readBytes (4 * j) 4)) 0

/-! ### Registers -/

/-- The data a read of a location returns (10_state.md R22 to R37). -/
def State.readLoc (s : State) : Loc → Word32
  | .id => idValue
  | .caps => capsWord s.build
  | .ctrl => s.ctrlWord
  | .status => s.statusWord
  | .cmd => s.cmd
  | .key j h => getHalf (s.keys.get j) h
  | .nonce h => getHalf s.nonce h
  | .edgeBits => s.edgeBits.setWidth 32
  | .edgeMask h => getHalf (edgeMask s.edgeBits) h
  | .hlen => s.hlen.setWidth 32
  | .hnonce => s.hnonce
  | .out h => getHalf s.out h
  | .digest w => s.digest.get w
  | .hbuf j => s.hbufWord j

/-- The draw counter after a read of a location: only a read of an HBUF word with a byte that holds no value draws
(log entry 4). -/
def State.drawsAfterRead (s : State) : Loc → Nat
  | .hbuf j => drawsAfter s.draws (s.hbuf.readBytes (4 * j) 4)
  | _ => s.draws

/-- Reset, as one atomic step: every register at its reset value, the engine IDLE, HBUF without a value. A command in
flight is abandoned (70_reset_and_hazards.md R261). The build, the inputs still to come, the bus response and the draw
counter are not the core's (log entry 13). -/
def State.coreReset (s : State) : State :=
  { State.resetOf s.build with
    events := s.events, response := s.response, hostFault := s.hostFault, draws := s.draws }

/-- A write to CTRL: with SRST = 1 a reset that discards the other bits, else IE alone (10_state.md R24;
70_reset_and_hazards.md R262). -/
def State.writeCtrl (v : Word32) (s : State) : State :=
  if v.getLsbD 1 then s.coreReset else { s with ie := v.getLsbD 0 }

/-- A write to a location that is not dropped (20_memory.md R69; 10_state.md R22 to R37). Reserved bits are discarded and
a read-only location ignores it (R35). CMD holds no written value: a write to it issues a command, which is the
bus's to do (R26). -/
def State.writeLoc (l : Loc) (v : Word32) (s : State) : State :=
  match l with
  | .ctrl => s.writeCtrl v
  | .status => s.writeStatus v
  | .key j h => { s with keys := s.keys.set j (setHalf (s.keys.get j) h v) }
  | .nonce h => { s with nonce := setHalf s.nonce h v }
  | .edgeBits => { s with edgeBits := v.extractLsb' 0 6 }
  | .hlen => { s with hlen := v.extractLsb' 0 16 }
  | .hnonce => { s with hnonce := v }
  | .hbuf j => { s with hbuf := s.hbuf.writeWord j v }
  | .id | .caps | .cmd | .edgeMask _ | .out _ | .digest _ => s

/-! ### The bus -/

/-- The step's OKAY answer, with the data of a read (20_memory.md R64). -/
def State.respondOkay (data : Word32) (s : State) : State := { s with response := some ⟨.okay, data⟩ }

/-- The step's ERROR answer: data 0, no state of the core changes, and the fault of the host program is reported with the
access's offset (20_memory.md R64; log entry 6). -/
def State.respondError (size : AccessSize) (off : BitVec 13) (s : State) : State :=
  { s with response := some ⟨.error, 0⟩, hostFault := some (.busError size off) }

/-- A dropped write: WERR is set, the answer is OKAY (20_memory.md R71). -/
def State.dropWrite (off : BitVec 13) (s : State) : State :=
  { s.respondOkay 0 with werr := true, hostFault := some (.droppedWrite off) }

/-! ### Commands -/

/-- The start of the acceptance of word `w`: CMD holds it, and DONE, ERR and ERRCODE are cleared before any check
(40_commands.md R111, R113). WERR stays (10_state.md R25). -/
def State.accept (w : Word32) (s : State) : State :=
  { s with cmd := w, done := false, err := false, errcode := 0 }

/-- `raise Error(c)`, the entry to a command error: the command completes in the same step and no result register is
written (60_exceptions.md R222, R227). -/
def State.raiseError (c : ErrCode) (s : State) : State :=
  { s with errcode := c.code, err := true, done := true, hostFault := some (.commandError c) }

/-- The start of a compute command that passed its checks: snapshot, BUSY (40_commands.md R111, R114). -/
def State.start (w : Word32) (s : State) : State := { s with phase := .busy (s.takeSnapshot w) }

/-- The status a successful completion leaves; the phase is IDLE (40_commands.md R115). -/
def State.complete (s : State) : State :=
  { s with phase := .idle, done := true, err := false, errcode := 0 }

/-- A completion that writes OUT (40_commands.md R115, R120). -/
def State.completeOut (x : Word64) (s : State) : State := { s with out := x }.complete

/-- A completion of SEED with the digest `d`: it writes K0..K3 and DIGEST0..7 (44_graphparams.md R203; 40_commands.md R120). -/
def State.completeSeed (d : List Byte) (s : State) : State :=
  { s with keys := seedKeys d, digest := seedDigestRegs d }.complete

/-- What the engine's read of the digest input adds to the step: the draws, and a report if a byte held no value
(70_reset_and_hazards.md R268; log entry 5). -/
def State.noteInput (input : List (Option Byte)) (s : State) : State :=
  { s with
    draws := drawsAfter s.draws input
    hostFault := if input.all Option.isSome then s.hostFault else some .unwrittenHeader }

end Sys2Proof.Machine
end

