-- ==== Sys2Proof/Machine/ControlCommands.lean ====
section
/-! DEFINITION. The meaning of NOP (spec/40_commands.md R117). Like every meaning it has two halves: in phase IDLE the
acceptance of the command's word, in phase BUSY the engine's completion of it (log entry 3). -/

namespace Sys2Proof.Machine

/-- NOP completes in its acceptance step and writes only the status (40_commands.md R117, R120). It is never in flight; the
completion of an empty result set is that of R115. -/
def execNop (s : State) : Host.Outcome State Fault Refusal :=
  match s.phase with
  | .idle => .next (s.accept (encode .nop)).complete
  | .busy _ => .next s.complete

end Sys2Proof.Machine
end

