-- ==== Sys2Proof/Machine/KeyedHash.lean ====
section
/-! DEFINITION. KeyedHash and BlockHash (spec/41_keyedhash.md R130 to R132; 42_blockhash.md R150, R151) and the sipnode
function (44_graphparams.md R204). The order inside a round, the chaining through a block and the span for `xor_all = 0`
are the spec's own general knowledge (93_implementation_defined.md GK1, GK3, GK4; log entry 17). -/

namespace Sys2Proof.Machine

/-- The four words of a SipHash state (41_keyedhash.md R130). -/
structure SipState where
  v0 : Word64
  v1 : Word64
  v2 : Word64
  v3 : Word64
  deriving DecidableEq, Repr

/-- The state initialised from the seed: word `i` is `s[i]` (41_keyedhash.md R130). -/
def SipState.ofKeys (k : Keys) : SipState := ⟨k.k0, k.k1, k.k2, k.k3⟩

/-- One compression round with final rotation `re`, line by line in the order of 41_keyedhash.md R131. -/
def sipRound (re : Nat) (v : SipState) : SipState :=
  let v0 := v.v0 + v.v1
  let v2 := v.v2 + v.v3
  let v1 := rotl64 v.v1 13
  let v3 := rotl64 v.v3 16
  let v1 := v1 ^^^ v0
  let v3 := v3 ^^^ v2
  let v0 := rotl64 v0 32
  let v2 := v2 + v1
  let v0 := v0 + v3
  let v1 := rotl64 v1 17
  let v3 := rotl64 v3 re
  let v1 := v1 ^^^ v2
  let v3 := v3 ^^^ v0
  let v2 := rotl64 v2 32
  ⟨v0, v1, v2, v3⟩

/-- Two rounds, the nonce and 0xff folded in, four more rounds (41_keyedhash.md R130). -/
def sipCore (v : SipState) (nonce : Word64) (re : Nat) : SipState :=
  let v := { v with v3 := v.v3 ^^^ nonce }
  let v := sipRound re (sipRound re v)
  let v := { v with v0 := v.v0 ^^^ nonce, v2 := v.v2 ^^^ 0xFF }
  sipRound re (sipRound re (sipRound re (sipRound re v)))

/-- The output of a state: the XOR of its words (41_keyedhash.md R130). -/
def sipLanes (v : SipState) : Word64 := (v.v0 ^^^ v.v1) ^^^ (v.v2 ^^^ v.v3)

/-- KeyedHash of one nonce under a seed (41_keyedhash.md R130). -/
def keyedHash (k : Keys) (nonce : Word64) (re : Nat) : Word64 :=
  sipLanes (sipCore (SipState.ofKeys k) nonce re)

/-- `count` chained hashes from `nonce` up, the state carried from each to the next (42_blockhash.md R150). -/
def chainHashes (re : Nat) : (count : Nat) → (nonce : Word64) → SipState → List Word64
  | 0, _, _ => []
  | count + 1, nonce, v =>
    let v := sipCore v nonce re
    sipLanes v :: chainHashes re count (nonce + 1) v

/-- `nonce0`, the first nonce of the block (42_blockhash.md R150). -/
def blockBase (nonce : Word64) : Word64 := nonce &&& 0xFFFFFFFFFFFFFFC0

/-- `ni`, the index within the block, 0..63 (42_blockhash.md R150). -/
def blockIndex (nonce : Word64) : Nat := (nonce &&& 63).toNat

/-- `buf`: the 64 chained hashes of the block that holds `nonce` (42_blockhash.md R150). -/
def blockBuffer (k : Keys) (nonce : Word64) (re : Nat) : List Word64 :=
  chainHashes re 64 (blockBase nonce) (SipState.ofKeys k)

/-- The first index of the XOR span after the target (42_blockhash.md R150, R151). -/
def spanStart (ni : Nat) (xorAll : Bool) : Nat := if xorAll || ni == 63 then ni + 1 else 63

/-- BlockHash: the target hash XORed with the span (42_blockhash.md R150). -/
def blockHash (k : Keys) (nonce : Word64) (re : Nat) (xorAll : Bool) : Word64 :=
  let buf := blockBuffer k nonce re
  let ni := blockIndex nonce
  (buf.drop (spanStart ni xorAll)).foldl (· ^^^ ·) (buf.getD ni 0)

/-- `sipnode`: the masked hash of `2·edge + uorv` with rotation 21, shifted if asked (44_graphparams.md R204). -/
def sipNode (k : Keys) (edge uorv : Word64) (shift : Bool) (mask : Word64) : Word64 :=
  let x := keyedHash k (2 * edge + uorv) 21 &&& mask
  if shift then (x <<< 1) ||| uorv else x

end Sys2Proof.Machine
end

