-- ==== Sys2Proof/Machine/GraphCommands.lean ====
section
/-! DEFINITION. The meanings of SIPNODE and SEED (spec/44_graphparams.md R205, R203): in phase IDLE the acceptance of the
command's word, in phase BUSY the engine's completion of it (log entry 3). -/

namespace Sys2Proof.Machine

/-- SIPNODE: no check beyond decoding; at completion OUT is the graph endpoint of the snapshot's edge
(44_graphparams.md R204, R205). -/
def execSipnode (uorv sh : Bool) (s : State) : Host.Outcome State Fault Refusal :=
  match s.phase with
  | .idle => .next ((s.accept (encode (.sipnode uorv sh))).start (encode (.sipnode uorv sh)))
  | .busy snap => .next (s.completeOut (sipNode snap.keys snap.nonce (bit64 uorv) sh (edgeMask snap.edgeBits)))

/-- SEED: BAD_HLEN at acceptance if the header is longer than HBUF or too short for the nonce; at completion K0..K3 and
DIGEST0..7 hold the digest of the header (44_graphparams.md R201 to R203). Over a byte that no host write has reached
since reset it digests a free byte and reports it (70_reset_and_hazards.md R268; log entry 5). -/
def execSeed (ne : Bool) (s : State) : Host.Outcome State Fault Refusal :=
  match s.phase with
  | .idle =>
    let s' := s.accept (encode (.seed ne))
    if hlenLegal s.build s.hlen ne then .next (s'.start (encode (.seed ne))) else .next (s'.raiseError .badHlen)
  | .busy snap =>
    let input := seedInput snap ne
    .next ((s.noteInput input).completeSeed (digest256 s.build.digestAlg (fillFree s.draws input)))

end Sys2Proof.Machine
end

