-- ==== Sys2Proof/Machine/HashCommands.lean ====
section
/-! DEFINITION. The meanings of SIPHASH and SIPBLOCK (spec/41_keyedhash.md R133; 42_blockhash.md R152): in phase IDLE the
acceptance of the command's word, in phase BUSY the engine's completion of it (log entry 3). -/

namespace Sys2Proof.Machine

/-- SIPHASH: BAD_ROT at acceptance unless 1 ≤ ROT ≤ 63; at completion OUT is the KeyedHash of the snapshot
(41_keyedhash.md R133). -/
def execSiphash (rot : BitVec 8) (s : State) : Host.Outcome State Fault Refusal :=
  match s.phase with
  | .idle =>
    let s' := s.accept (encode (.siphash rot))
    if rotLegal rot then .next (s'.start (encode (.siphash rot))) else .next (s'.raiseError .badRot)
  | .busy snap => .next (s.completeOut (keyedHash snap.keys snap.nonce rot.toNat))

/-- SIPBLOCK: BAD_ROT at acceptance unless 1 ≤ ROT ≤ 63; at completion OUT is the BlockHash of the snapshot
(42_blockhash.md R152). -/
def execSipblock (rot : BitVec 8) (xa : Bool) (s : State) : Host.Outcome State Fault Refusal :=
  match s.phase with
  | .idle =>
    let s' := s.accept (encode (.sipblock rot xa))
    if rotLegal rot then .next (s'.start (encode (.sipblock rot xa))) else .next (s'.raiseError .badRot)
  | .busy snap => .next (s.completeOut (blockHash snap.keys snap.nonce rot.toNat xa))

end Sys2Proof.Machine
end

