-- ==== Sys2Proof/Machine/Dispatch.lean ====
section
/-! DEFINITION. The dispatch of a command to its meaning, one arm per constructor. `exec i s` is what the core does for
command `i` in one atomic step: in phase IDLE the acceptance of its word (spec/40_commands.md R111), in phase BUSY the
engine's completion of it (R115; log entry 3). A CMD write while BUSY never comes here: the bus drops it
(20_memory.md R71; 60_exceptions.md R224). -/

namespace Sys2Proof.Machine

/-- One atomic step of the core for the command `i`. -/
def exec (i : Instr) (s : State) : Host.Outcome State Fault Refusal :=
  match i with
  | .nop => Sys2Proof.Machine.execNop s
  | .siphash rot => Sys2Proof.Machine.execSiphash rot s
  | .sipblock rot xa => Sys2Proof.Machine.execSipblock rot xa s
  | .sipnode uorv sh => Sys2Proof.Machine.execSipnode uorv sh s
  | .seed ne => Sys2Proof.Machine.execSeed ne s

end Sys2Proof.Machine
end

