-- ==== Sys2Proof/Machine/Bus.lean ====
section
/-! DEFINITION. One host access, the engine's turn, and one input of the machine (spec/20_memory.md R61 to R71;
40_commands.md R111, R115; 70_reset_and_hazards.md R260, R261). -/

namespace Sys2Proof.Machine

/-- The size of an access. -/
def Access.size : Access → AccessSize
  | .read size _ => size
  | .write size _ _ => size

/-- The byte offset of an access. -/
def Access.offset : Access → BitVec 13
  | .read _ off => off
  | .write _ off _ => off

/-- The acceptance of a CMD write while IDLE: an illegal word completes at once with ILLEGAL_CMD, a command runs its
acceptance half (40_commands.md R111; 30_encoding.md R98). -/
def acceptCommand (w : Word32) (s : State) : Host.Outcome State Fault Refusal :=
  match decode w with
  | .error _ => .next ((s.accept w).raiseError .illegalCmd)
  | .ok i => exec i s

/-- A read of a location: OKAY with its data, and no side effect on the core (20_memory.md R65). -/
def hostRead (l : Loc) (s : State) : State :=
  { s.respondOkay (s.readLoc l) with draws := s.drawsAfterRead l }

/-- A write to a location: dropped if it is busy-locked and the engine is BUSY, a command if it is CMD, else performed
(20_memory.md R71). The answer is OKAY in every case. -/
def hostWrite (off : BitVec 13) (l : Loc) (v : Word32) (s : State) : Host.Outcome State Fault Refusal :=
  if s.phase.isBusy && l.busyLocked then .next (s.dropWrite off)
  else if l = .cmd then acceptCommand v (s.respondOkay 0)
  else .next ((s.respondOkay 0).writeLoc l v)

/-- A host access: a bus error unless it is 32 bits wide, aligned and at a location of the map (20_memory.md R61, R64). -/
def hostAccess (a : Access) (s : State) : Host.Outcome State Fault Refusal :=
  if a.size = .word then
    match locate s.build a.offset with
    | none => .next (s.respondError a.size a.offset)
    | some l =>
      match a with
      | .read _ _ => .next (hostRead l s)
      | .write _ off v => hostWrite off l v s
  else .next (s.respondError a.size a.offset)

/-- The engine's turn: the completion of the command in flight, and nothing while IDLE (40_commands.md R115). -/
def engineTurn (s : State) : Host.Outcome State Fault Refusal :=
  match s.phase with
  | .idle => .next s
  | .busy snap =>
    match decode snap.w with
    | .ok i => exec i s
    | .error _ => .fault (.snapshotIllegal snap.w)

/-- A step begins: its input is taken from the queue, and the reports of the step before are gone (log entries 2, 7, 8). -/
def State.beginStep (rest : List Event) (s : State) : State :=
  { s with events := rest, response := none, hostFault := none }

/-- One input of the machine. When no input is left the engine moves, so that a command in flight completes (weak fairness,
40_commands.md R116), and an IDLE core waits (70_reset_and_hazards.md R263). -/
def runEvent (s : State) : Host.Outcome State Fault Refusal :=
  match s.events with
  | [] => engineTurn (s.beginStep [])
  | .engine :: rest => engineTurn (s.beginStep rest)
  | .rstN :: rest => .next (s.beginStep rest).coreReset
  | .host a :: rest => hostAccess a (s.beginStep rest)

/-- The byte offset of CMD (10_state.md R22). -/
def cmdOffset : BitVec 13 := 0x010

/-- The state in which the next step is the acceptance of the command word `w`: the engine is IDLE and the next input is
the host's write of `w` to CMD (40_commands.md R111; log entry 10). -/
def State.issueWord (w : Word32) (s : State) : State :=
  { s with phase := .idle, events := .host (.write .word cmdOffset w) :: s.events }

end Sys2Proof.Machine
end

