-- ==== Sys2Proof/Machine/Step.lean ====
section
/-! DEFINITION. One step of the machine, and the place where it takes its next command from (spec/00_scope.md R9;
20_memory.md R70, R75). -/

namespace Sys2Proof.Machine

/-- One atomic step of one agent (20_memory.md R70). -/
def step (s : State) : Host.Outcome State Fault Refusal := runEvent s

/-- The state whose very next step runs the command of `nbits` bits `w`: the core fetches nothing (20_memory.md R75), so the
host's next access writes the word to CMD (log entry 10). -/
def State.withFetchWord (s : State) (nbits w : Nat) : State := s.issueWord (BitVec.ofNat 32 (w % 2 ^ nbits))

end Sys2Proof.Machine
end

