-- ==== Sys2Proof/Machine/HostProgram.lean ====
section
/-! DEFINITION. Host programs: the assembler, the register names, the base host accesses and the pseudo-instructions
(spec/30_encoding.md R101, R103 to R105), and what a host program does to the core through `step`. The host's own
instruction set is outside the core (R104): nothing the core does depends on this file. -/

namespace Sys2Proof.Machine

/-! ### Assembler -/

/-- The value of the operand `name`, or `dflt` where it is absent (30_encoding.md R101). Of an operand written twice the
first counts, and it is no assembly error: the rule is silent there (DESIGN CHOICE, log entry 19). -/
def asmOperand (ops : List (String × Nat)) (name : String) (dflt : Option Nat) : Option Nat :=
  match ops.lookup name with
  | some v => some v
  | none => dflt

/-- A one-bit operand: 0, 1, or absent, which means 0 (30_encoding.md R101). -/
def asmBit (ops : List (String × Nat)) (name : String) : Option Bool :=
  match asmOperand ops name (some 0) with
  | some 0 => some false
  | some 1 => some true
  | _ => none

/-- The operand `rot`: required, and 8 bits wide; values outside 1..63 assemble too, to test BAD_ROT (30_encoding.md R101).
A value that does not fit the field is an assembly error (DESIGN CHOICE, log entry 19). -/
def asmRot (ops : List (String × Nat)) : Option (BitVec 8) :=
  match asmOperand ops "rot" none with
  | some r => if r < 256 then some (BitVec.ofNat 8 r) else none
  | none => none

/-- Every operand written is one the mnemonic has; another is an assembly error (DESIGN CHOICE, log entry 19). -/
def asmOnly (ops : List (String × Nat)) (names : List String) : Bool := ops.all fun o => names.contains o.1

/-- The word that a mnemonic with `name=value` operands assembles to, or `none` for an assembly error (30_encoding.md R101).
The raw form `.word` has one operand, the word; a number of more than 32 bits is an assembly error, and so is an
unknown mnemonic (DESIGN CHOICE, log entry 19). -/
def assemble (mnemonic : String) (ops : List (String × Nat)) : Option Word32 :=
  if mnemonic = "NOP" then
    if asmOnly ops [] then some (encode .nop) else none
  else if mnemonic = "SIPHASH" then
    match asmOnly ops ["rot"], asmRot ops with
    | true, some r => some (encode (.siphash r))
    | _, _ => none
  else if mnemonic = "SIPBLOCK" then
    match asmOnly ops ["rot", "xa"], asmRot ops, asmBit ops "xa" with
    | true, some r, some x => some (encode (.sipblock r x))
    | _, _, _ => none
  else if mnemonic = "SIPNODE" then
    match asmOnly ops ["uorv", "sh"], asmBit ops "uorv", asmBit ops "sh" with
    | true, some u, some h => some (encode (.sipnode u h))
    | _, _, _ => none
  else if mnemonic = "SEED" then
    match asmOnly ops ["ne"], asmBit ops "ne" with
    | true, some n => some (encode (.seed n))
    | _, _ => none
  else if mnemonic = ".word" then
    match ops with
    | [("", w)] => if w < 2 ^ 32 then some (BitVec.ofNat 32 w) else none
    | _ => none
  else none

/-! ### Names -/

/-- The 64-bit registers that a pseudo-instruction may name without a suffix (30_encoding.md R103). -/
inductive Reg64 where
  | key (j : Fin 4)
  | nonce
  | edgeMask
  | out
  deriving DecidableEq, Repr

/-- One half of a 64-bit register as a location (30_encoding.md R103). -/
def Reg64.half : Reg64 → Half → Loc
  | .key j, h => .key j h
  | .nonce, h => .nonce h
  | .edgeMask, h => .edgeMask h
  | .out, h => .out h

/-- The offset that a register name or `HBUF+n` stands for (30_encoding.md R103; 10_state.md R22). `HBUF+n` with n of 4096 or
more has no offset in the 13-bit map: no line that assembles names it (`Loc.inMap`), and here it wraps modulo 2^13
(DESIGN CHOICE, log entry 20). -/
def Loc.offset (l : Loc) : BitVec 13 :=
  match l with
  | .hbuf j => BitVec.ofNat 13 (hbufBase + 4 * j)
  | _ =>
    match registerMap.find? (fun r => r.2 == l) with
    | some r => BitVec.ofNat 13 r.1
    | none => 0

/-- The location has an offset in the 13-bit map: a register, or `HBUF+n` with n below 4096 (10_state.md R22). -/
def Loc.inMap : Loc → Bool
  | .hbuf j => decide (hbufBase + 4 * j < 2 ^ 13)
  | _ => true

/-- The register names, `Kj_LO`, `NONCE_HI` and so on (30_encoding.md R103). -/
def Loc.named (name : String) : Option Loc :=
  [ ("ID", Loc.id), ("CAPS", .caps), ("CTRL", .ctrl), ("STATUS", .status), ("CMD", .cmd),
    ("K0_LO", .key 0 .lo), ("K0_HI", .key 0 .hi), ("K1_LO", .key 1 .lo), ("K1_HI", .key 1 .hi),
    ("K2_LO", .key 2 .lo), ("K2_HI", .key 2 .hi), ("K3_LO", .key 3 .lo), ("K3_HI", .key 3 .hi),
    ("NONCE_LO", .nonce .lo), ("NONCE_HI", .nonce .hi), ("EDGE_BITS", .edgeBits),
    ("EDGE_MASK_LO", .edgeMask .lo), ("EDGE_MASK_HI", .edgeMask .hi), ("HLEN", .hlen), ("HNONCE", .hnonce),
    ("OUT_LO", .out .lo), ("OUT_HI", .out .hi),
    ("DIGEST0", .digest 0), ("DIGEST1", .digest 1), ("DIGEST2", .digest 2), ("DIGEST3", .digest 3),
    ("DIGEST4", .digest 4), ("DIGEST5", .digest 5), ("DIGEST6", .digest 6), ("DIGEST7", .digest 7) ].lookup name

/-! ### Lines and pseudo-instructions -/

/-- A label: one the program writes, or a fresh one of an expansion, numbered by the line it expands (30_encoding.md R105). -/
inductive Label where
  | user (name : String)
  | fresh (line : Nat)
  deriving DecidableEq, Repr

/-- A host temporary: one the program names, or a half `t.lo` or `t.hi` (30_encoding.md R104, R105). -/
inductive Temp where
  | named (t : String)
  | lo (t : String)
  | hi (t : String)
  deriving DecidableEq, Repr

/-- A base line of a host program (30_encoding.md R104); `join` is the assembly of a 64-bit temporary from its halves
(R105, `rd64`). -/
inductive HostLine where
  | label (l : Label)
  | wr (r : Loc) (v : Word32)
  | rd (r : Loc) (t : Temp)
  | ifGoto (t : Temp) (mask val : Word64) (l : Label)
  | goto (l : Label)
  | join (t : String)
  | halt
  deriving DecidableEq, Repr

/-- A source line of a host program: a base line or a pseudo-instruction (30_encoding.md R104, R105). -/
inductive HostSource where
  | base (l : HostLine)
  | cmd (mnemonic : String) (ops : List (String × Nat))
  | wr64 (r : Reg64) (v : Word64)
  | rd64 (r : Reg64) (t : String)
  | setkeys (a b c d : Word64)
  | waitidle
  | waitdone
  | clrstat
  | hbuf (bytes : List Byte)
  deriving DecidableEq, Repr

/-- `wr64 R, V` (30_encoding.md R105). -/
def expandWr64 (r : Reg64) (v : Word64) : List HostLine :=
  [.wr (r.half .lo) (getHalf v .lo), .wr (r.half .hi) (getHalf v .hi)]

/-- The temporary `s` of the polling expansions: only their labels are fresh, so it is the program's own `s`
(30_encoding.md R105). -/
def pollTemp : Temp := .named "s"

/-- The location that a base line accesses, if any, has an offset in the map. -/
def HostLine.inMap : HostLine → Bool
  | .wr r _ => r.inMap
  | .rd r _ => r.inMap
  | .label _ | .ifGoto _ _ _ _ | .goto _ | .join _ | .halt => true

/-- The expansion of source line number `n` as the table writes it, or `none` for an assembly error (30_encoding.md R105). -/
def rawExpansion (n : Nat) : HostSource → Option (List HostLine)
  | .base l => some [l]
  | .cmd mnemonic ops =>
    match assemble mnemonic ops with
    | some w => some [.wr .cmd w]
    | none => none
  | .wr64 r v => some (expandWr64 r v)
  | .rd64 r t => some [.rd (r.half .lo) (.lo t), .rd (r.half .hi) (.hi t), .join t]
  | .setkeys a b c d =>
    some (expandWr64 (.key 0) a ++ expandWr64 (.key 1) b ++ expandWr64 (.key 2) c ++ expandWr64 (.key 3) d)
  | .waitidle => some [.label (.fresh n), .rd .status pollTemp, .ifGoto pollTemp 0x1 0x1 (.fresh n)]
  | .waitdone => some [.label (.fresh n), .rd .status pollTemp, .ifGoto pollTemp 0x2 0x0 (.fresh n)]
  | .clrstat => some [.wr .status 0x0000000E]
  | .hbuf bytes => some ((List.range ((bytes.length + 3) / 4)).map fun j => .wr (.hbuf j) (le32 bytes (4 * j)))

/-- The expansion of source line number `n`, or `none` for an assembly error (30_encoding.md R105). A line that accesses
`HBUF+n` with n of 4096 or more, an `hbuf` line of more than 4096 bytes among them, is one (DESIGN CHOICE, log entry 20). -/
def expandLine (n : Nat) (l : HostSource) : Option (List HostLine) :=
  (rawExpansion n l).filter fun lines => lines.all HostLine.inMap

/-- The base lines of a program whose first source line is number `n` (30_encoding.md R105). -/
def expandFrom : (n : Nat) → List HostSource → Option (List HostLine)
  | _, [] => some []
  | n, l :: rest =>
    match expandLine n l, expandFrom (n + 1) rest with
    | some a, some b => some (a ++ b)
    | _, _ => none

/-! ### Running a host program -/

/-- A host program at work: the core, the line the host is at, and its temporaries. -/
structure HostRun where
  core : State
  line : Nat
  temps : List (Temp × Word64)
  halted : Bool
  deriving DecidableEq, Repr

/-- The value of a temporary; one never written reads 0 (DESIGN CHOICE, log entry 18). -/
def HostRun.temp (h : HostRun) (t : Temp) : Word64 := (h.temps.lookup t).getD 0

/-- The line that a label marks: the first one where several lines bear it, and the end of the program where none does
(DESIGN CHOICE, log entry 18). -/
def lineOf (prog : List HostLine) (l : Label) : Nat := prog.findIdx (· == .label l)

/-- The core after one step whose input is `e`, the inputs of the core's own queue left for later. -/
def stepOn (e : Event) (s : State) : Host.Outcome State Fault Refusal := step { s with events := e :: s.events }

/-- One line of the host program (30_encoding.md R104). Control flow performs no access. -/
def HostRun.hostLine (prog : List HostLine) (h : HostRun) : Host.Outcome HostRun Fault Refusal :=
  let next := { h with line := h.line + 1 }
  match prog[h.line]? with
  | none => .next { h with halted := true }
  | some (.label _) => .next next
  | some (.wr r v) =>
    match stepOn (.host (.write .word r.offset v)) h.core with
    | .next c => .next { next with core := c }
    | .fault f => .fault f
    | .refused f => .refused f
  | some (.rd r t) =>
    match stepOn (.host (.read .word r.offset)) h.core with
    | .next c =>
      .next { next with core := c, temps := (t, ((c.response.map Response.data).getD 0).setWidth 64) :: h.temps }
    | .fault f => .fault f
    | .refused f => .refused f
  | some (.ifGoto t mask val l) =>
    .next (if h.temp t &&& mask = val then { h with line := lineOf prog l } else next)
  | some (.goto l) => .next { h with line := lineOf prog l }
  | some (.join t) =>
    .next { next with temps := (.named t, (h.temp (.hi t)).setWidth 32 ++ (h.temp (.lo t)).setWidth 32) :: h.temps }
  | some .halt => .next { h with halted := true }

/-- The engine's turn while a host program runs (40_commands.md R115). -/
def HostRun.engine (h : HostRun) : Host.Outcome HostRun Fault Refusal :=
  match stepOn .engine h.core with
  | .next c => .next { h with core := c }
  | .fault f => .fault f
  | .refused f => .refused f

/-- A run of host program and engine under a schedule: `true` is the engine's turn, `false` one line of the host
(20_memory.md R70). -/
def HostRun.run (prog : List HostLine) : List Bool → HostRun → Host.Outcome HostRun Fault Refusal
  | [], h => .next h
  | turn :: rest, h =>
    if h.halted then .next h
    else
      match (if turn then h.engine else h.hostLine prog) with
      | .next h' => HostRun.run prog rest h'
      | .fault f => .fault f
      | .refused f => .refused f

end Sys2Proof.Machine
end

