-- ==== Sys2Proof/Safety.lean ====
section
/-! DEFINITION. What counts as a safe run: the invariant that every run keeps, and runs without a fault of the host
program (spec/60_exceptions.md R220). -/

namespace Sys2Proof.Machine

/-- HBUF in its canonical form, inside the buffer of the build (10_state.md R37). -/
def State.HbufOk (s : State) : Prop :=
  s.hbuf.wf = true ∧ ∀ c ∈ s.hbuf, c.1 < s.build.hbufSize

/-- The error fields of STATUS: ERRCODE is one of 0..3, and ERR stands only beside an error code (60_exceptions.md R221,
R222; 93_implementation_defined.md U15). -/
def State.ErrorFieldsOk (s : State) : Prop :=
  s.errcode.toNat ≤ 3 ∧ (s.err = true → s.errcode ≠ 0)

/-- The command word is a compute command that passes its acceptance checks with this header length (40_commands.md R111). -/
def passesChecks (b : Build) (hlen : BitVec 16) (w : Word32) : Bool :=
  match decode w with
  | .ok .nop => false
  | .ok (.siphash rot) => rotLegal rot
  | .ok (.sipblock rot _) => rotLegal rot
  | .ok (.sipnode _ _) => true
  | .ok (.seed ne) => hlenLegal b hlen ne
  | .error _ => false

/-- While BUSY the snapshot equals the live registers, CMD holds the running command, which passed its checks, and DONE, ERR
and ERRCODE are still clear (10_state.md R38; 40_commands.md R111 to R114). -/
def State.SnapshotOk (s : State) : Prop :=
  match s.phase with
  | .idle => True
  | .busy snap =>
    snap = s.takeSnapshot s.cmd ∧ passesChecks s.build s.hlen s.cmd = true
      ∧ s.done = false ∧ s.err = false ∧ s.errcode = 0

/-- The invariant of the core. -/
def State.Inv (s : State) : Prop := s.HbufOk ∧ s.ErrorFieldsOk ∧ s.SnapshotOk

/-- The run of `n` steps from `s` goes through, and none of its steps reports a fault of the host program. -/
def runsSafely : Nat → State → Prop
  | 0, _ => True
  | n + 1, s =>
    match step s with
    | .next t => t.hostFault = none ∧ runsSafely n t
    | .fault _ => False
    | .refused _ => False

/-- `n` steps, stopping at the first fault or refusal. -/
def runSteps : Nat → State → Host.Outcome State Fault Refusal
  | 0, s => .next s
  | n + 1, s =>
    match step s with
    | .next t => runSteps n t
    | .fault f => .fault f
    | .refused r => .refused r

/-! ### The terms of the claims -/

/-- The engine moves next, and `rest` are the inputs after its turn. -/
def State.EngineNext (s : State) (rest : List Event) : Prop := s.events = .engine :: rest ∨ s.events = [] ∧ rest = []

/-- The input resets the core: `rst_n`, or a write to CTRL with SRST = 1 (70_reset_and_hazards.md R260). -/
def Event.Resets (e : Event) : Prop :=
  e = .rstN ∨ ∃ v : Word32, e = .host (.write .word 0x008 v) ∧ v.getLsbD 1 = true

/-- The next input resets the core. -/
def State.ResetNext (s : State) : Prop := ∃ e rest, s.events = e :: rest ∧ e.Resets

/-- Every piece of state at the value 10_state.md R42 lists for it. -/
def State.HasResetValues (t : State) : Prop :=
  t.readLoc .id = 0x53495024
  ∧ t.readLoc .caps
      = BitVec.ofNat 16 t.build.hbufSize ++ (64 : BitVec 8) ++ (0 : BitVec 6) ++ digestAlgCode t.build.digestAlg
  ∧ t.readLoc .ctrl = 0 ∧ t.readLoc .status = 0 ∧ t.readLoc .cmd = 0
  ∧ (∀ j h, t.readLoc (.key j h) = 0) ∧ (∀ h, t.readLoc (.nonce h) = 0)
  ∧ t.readLoc .edgeBits = 0 ∧ (∀ h, t.readLoc (.edgeMask h) = 0)
  ∧ t.readLoc .hlen = 0 ∧ t.readLoc .hnonce = 0
  ∧ (∀ h, t.readLoc (.out h) = 0) ∧ (∀ w, t.readLoc (.digest w) = 0)
  ∧ (∀ i, t.hbuf.read i = none) ∧ t.phase = .idle ∧ t.irq = false

/-- What a read of each register returns, by offset (10_state.md R22 to R34): the whole map below HBUF. -/
def State.registerValues (s : State) : List (BitVec 13 × Word32) :=
  [ (0x000, 0x53495024),
    (0x004, BitVec.ofNat 16 s.build.hbufSize ++ (64 : BitVec 8) ++ (0 : BitVec 6) ++ digestAlgCode s.build.digestAlg),
    (0x008, (0 : BitVec 31) ++ BitVec.ofBool s.ie),
    (0x00C, (0 : BitVec 24) ++ s.errcode ++ BitVec.ofBool s.werr ++ BitVec.ofBool s.err ++ BitVec.ofBool s.done
      ++ BitVec.ofBool s.phase.isBusy),
    (0x010, s.cmd),
    (0x020, s.keys.k0.extractLsb' 0 32), (0x024, s.keys.k0.extractLsb' 32 32),
    (0x028, s.keys.k1.extractLsb' 0 32), (0x02C, s.keys.k1.extractLsb' 32 32),
    (0x030, s.keys.k2.extractLsb' 0 32), (0x034, s.keys.k2.extractLsb' 32 32),
    (0x038, s.keys.k3.extractLsb' 0 32), (0x03C, s.keys.k3.extractLsb' 32 32),
    (0x040, s.nonce.extractLsb' 0 32), (0x044, s.nonce.extractLsb' 32 32),
    (0x048, s.edgeBits.setWidth 32),
    (0x050, BitVec.ofNat 32 (2 ^ s.edgeBits.toNat - 1)),
    (0x054, BitVec.ofNat 32 ((2 ^ s.edgeBits.toNat - 1) / 2 ^ 32)),
    (0x058, s.hlen.setWidth 32), (0x05C, s.hnonce),
    (0x060, s.out.extractLsb' 0 32), (0x064, s.out.extractLsb' 32 32),
    (0x080, s.digest.d0), (0x084, s.digest.d1), (0x088, s.digest.d2), (0x08C, s.digest.d3),
    (0x090, s.digest.d4), (0x094, s.digest.d5), (0x098, s.digest.d6), (0x09C, s.digest.d7) ]

/-- The core after a write of `v` to each operand register, by offset: that register, or that half of it, holds `v` without
its reserved bits, and all else is as before (10_state.md R27 to R32, R36; 20_memory.md R69). -/
def State.registerWrites (s : State) (v : Word32) : List (BitVec 13 × State) :=
  [ (0x020, { s with keys := { s.keys with k0 := s.keys.k0.extractLsb' 32 32 ++ v } }),
    (0x024, { s with keys := { s.keys with k0 := v ++ s.keys.k0.extractLsb' 0 32 } }),
    (0x028, { s with keys := { s.keys with k1 := s.keys.k1.extractLsb' 32 32 ++ v } }),
    (0x02C, { s with keys := { s.keys with k1 := v ++ s.keys.k1.extractLsb' 0 32 } }),
    (0x030, { s with keys := { s.keys with k2 := s.keys.k2.extractLsb' 32 32 ++ v } }),
    (0x034, { s with keys := { s.keys with k2 := v ++ s.keys.k2.extractLsb' 0 32 } }),
    (0x038, { s with keys := { s.keys with k3 := s.keys.k3.extractLsb' 32 32 ++ v } }),
    (0x03C, { s with keys := { s.keys with k3 := v ++ s.keys.k3.extractLsb' 0 32 } }),
    (0x040, { s with nonce := s.nonce.extractLsb' 32 32 ++ v }),
    (0x044, { s with nonce := v ++ s.nonce.extractLsb' 0 32 }),
    (0x048, { s with edgeBits := v.extractLsb' 0 6 }),
    (0x058, { s with hlen := v.extractLsb' 0 16 }),
    (0x05C, { s with hnonce := v }) ]

/-- What the command in flight will leave in OUT, from its snapshot; `none` for a command that does not write OUT
(40_commands.md R115, R120). -/
def snapshotOut (snap : Snapshot) : Instr → Option Word64
  | .nop => none
  | .siphash rot => some (keyedHash snap.keys snap.nonce rot.toNat)
  | .sipblock rot xa => some (blockHash snap.keys snap.nonce rot.toNat xa)
  | .sipnode uorv sh => some (sipNode snap.keys snap.nonce (bit64 uorv) sh (edgeMask snap.edgeBits))
  | .seed _ => none

/-- The aligned offsets that 10_state.md R22 lists as reserved. -/
def reservedOffset (b : Build) (n : Nat) : Prop :=
  (0x014 ≤ n ∧ n ≤ 0x01C) ∨ n = 0x04C ∨ (0x068 ≤ n ∧ n ≤ 0x07C) ∨ (0x0A0 ≤ n ∧ n ≤ 0x0FFC) ∨ 0x1000 + b.hbufSize ≤ n

/-- The accesses that get a bus error (20_memory.md R64). -/
def badAccess (b : Build) (a : Access) : Prop :=
  a.size ≠ .word ∨ a.offset.toNat % 4 ≠ 0 ∨ reservedOffset b a.offset.toNat

/-- A field that the opcode of the word does not use is not 0, for the opcodes 0..4 (30_encoding.md R93; 60_exceptions.md R223). -/
def unusedFieldSet (w : Word32) : Prop :=
  (fieldOp w = 0 ∧ w.extractLsb' 4 12 ≠ 0)
  ∨ (fieldOp w = 1 ∧ w.extractLsb' 4 4 ≠ 0)
  ∨ (fieldOp w = 2 ∧ w.extractLsb' 5 3 ≠ 0)
  ∨ (fieldOp w = 3 ∧ (w.extractLsb' 8 8 ≠ 0 ∨ w.getLsbD 7 = true ∨ w.getLsbD 4 = true))
  ∨ (fieldOp w = 4 ∧ (w.extractLsb' 8 8 ≠ 0 ∨ w.extractLsb' 4 3 ≠ 0))

/-- The illegal command words (30_encoding.md R98). -/
def illegalWord (w : Word32) : Prop := 5 ≤ (fieldOp w).toNat ∨ fieldRsv w ≠ 0 ∨ unusedFieldSet w

/-- What a command that passes its checks leaves in OUT, from the operands a state holds; `none` for a command that does not
write OUT (40_commands.md R120). -/
def commandOut (s : State) : Instr → Option Word64
  | .nop => none
  | .siphash rot => if rotLegal rot then some (keyedHash s.keys s.nonce rot.toNat) else none
  | .sipblock rot xa => if rotLegal rot then some (blockHash s.keys s.nonce rot.toNat xa) else none
  | .sipnode uorv sh => some (sipNode s.keys s.nonce (bit64 uorv) sh (edgeMask s.edgeBits))
  | .seed _ => none

end Sys2Proof.Machine
end

