-- ==== Sys2Proof/Certificates/Slice0/Obligations.lean ====
section
/-! DEFINITION. The statements about the core, each from the rules of spec/ its docstring names. -/

open Sys2Proof Sys2Proof.Machine

/-! ### Reset, invariant, liveness of the machine -/

/-- 10_state.md R42: what every register reads after reset, of every build, and after either reset of any state; HBUF holds no
value, the engine is IDLE and `irq` is low. -/
def Obligations.ResetLeavesTheStatedValues : Prop :=
  (∀ b : Build, (State.resetOf b).HasResetValues)
  ∧ ∀ s : State, s.ResetNext → ∃ t, step s = .next t ∧ t.HasResetValues

/-- The invariant holds after reset, of every build. -/
def Obligations.ResetHasTheInvariant : Prop := ∀ b : Build, (State.resetOf b).Inv

/-- 10_state.md R37, R38, 60_exceptions.md R221: every step keeps the invariant: HBUF canonical and inside the buffer, ERRCODE
at most 3 and not 0 beside ERR, the snapshot equal to the live registers while BUSY. -/
def Obligations.EveryStepKeepsTheInvariant : Prop :=
  ∀ s t : State, s.Inv → step s = .next t → t.Inv

/-- 60_exceptions.md R220: the core never stops; from every state with the invariant a step answers a next state. -/
def Obligations.TheCoreNeverStops : Prop :=
  ∀ s : State, s.Inv → ∃ t, step s = .next t

/-- 40_commands.md R116: while BUSY the completion comes after at most as many steps as there are inputs, unless one of them
is a reset. That the engine moves when no input is left is the model's choice (log entry 2). -/
def Obligations.ABusyEngineCompletes : Prop :=
  ∀ (s : State) (snap : Snapshot), s.Inv → s.phase = .busy snap → (∀ e ∈ s.events, ¬ e.Resets) →
    ∃ k u t, k ≤ s.events.length ∧ runSteps k s = .next u ∧ u.phase = .busy snap
      ∧ step u = .next t ∧ t.phase = .idle ∧ t.done = true ∧ t.err = false ∧ t.errcode = 0

/-- 10_state.md R23: the fields of CAPS, and that no step changes what it reads. -/
def Obligations.CapsReportsTheBuildForEver : Prop :=
  ∀ s : State,
    (s.readLoc .caps).extractLsb' 0 2 = digestAlgCode s.build.digestAlg
    ∧ (s.build.digestAlg = .sha256 ∧ digestAlgCode s.build.digestAlg = 0
        ∨ s.build.digestAlg = .blake2b256 ∧ digestAlgCode s.build.digestAlg = 1)
    ∧ (s.readLoc .caps).extractLsb' 2 6 = 0
    ∧ (s.readLoc .caps).extractLsb' 8 8 = 64
    ∧ ((s.readLoc .caps).extractLsb' 16 16).toNat = s.build.hbufSize
    ∧ 4 ≤ s.build.hbufSize ∧ s.build.hbufSize ≤ 4096 ∧ s.build.hbufSize % 4 = 0
    ∧ ∀ t, step s = .next t → t.readLoc .caps = s.readLoc .caps

/-! ### Encoding -/

/-- 30_encoding.md R93, R94, R101: decoding the word of a command gives the command, for every operand. -/
def Obligations.DecodeOfEncodeIsTheCommand : Prop := ∀ i : Instr, decode (encode i) = .ok i

/-- 30_encoding.md R93, R94: a word that decodes is the word of the command it decodes to: no bit of it is dropped. -/
def Obligations.EncodeOfDecodeIsTheWord : Prop := ∀ (w : Word32) (i : Instr), decode w = .ok i → encode i = w

/-- 30_encoding.md R101: what each mnemonic with its operands assembles to; an absent `xa`, `uorv`, `sh` or `ne` is 0, other
values than 0 and 1 of these are errors, and an absent `rot` is one; a rotation outside 1..63 assembles. -/
def Obligations.TheAssemblerEncodesCommands : Prop :=
  assemble "NOP" [] = some 0
  ∧ (∀ r, r < 256 → assemble "SIPHASH" [("rot", r)] = some (BitVec.ofNat 32 r <<< 8 ||| 1))
  ∧ (∀ r x, r < 256 → x < 2 →
      assemble "SIPBLOCK" [("rot", r), ("xa", x)] = some (BitVec.ofNat 32 r <<< 8 ||| BitVec.ofNat 32 x <<< 4 ||| 2)
      ∧ assemble "SIPBLOCK" [("rot", r)] = some (BitVec.ofNat 32 r <<< 8 ||| 2))
  ∧ (∀ u h, u < 2 → h < 2 →
      assemble "SIPNODE" [("uorv", u), ("sh", h)] = some (BitVec.ofNat 32 h <<< 6 ||| BitVec.ofNat 32 u <<< 5 ||| 3)
      ∧ assemble "SIPNODE" [("uorv", u)] = some (BitVec.ofNat 32 u <<< 5 ||| 3)
      ∧ assemble "SIPNODE" [("sh", h)] = some (BitVec.ofNat 32 h <<< 6 ||| 3)
      ∧ assemble "SIPNODE" [] = some 3)
  ∧ (∀ n, n < 2 → assemble "SEED" [("ne", n)] = some (BitVec.ofNat 32 n <<< 7 ||| 4) ∧ assemble "SEED" [] = some 4)
  ∧ (∀ w, w < 2 ^ 32 → assemble ".word" [("", w)] = some (BitVec.ofNat 32 w))
  ∧ (∀ b, 2 ≤ b → (∀ r, assemble "SIPBLOCK" [("rot", r), ("xa", b)] = none)
      ∧ assemble "SIPNODE" [("uorv", b)] = none ∧ assemble "SIPNODE" [("sh", b)] = none
      ∧ assemble "SEED" [("ne", b)] = none)
  ∧ assemble "SIPHASH" [] = none ∧ ∀ x, assemble "SIPBLOCK" [("xa", x)] = none

/-- 30_encoding.md R102: the twelve worked encodings, read and written. -/
def Obligations.WorkedEncodings : Prop :=
  (encode (.siphash 21) = 0x00001501 ∧ decode 0x00001501 = .ok (.siphash 21))
  ∧ (encode (.siphash 25) = 0x00001901 ∧ decode 0x00001901 = .ok (.siphash 25))
  ∧ (encode (.siphash 16) = 0x00001001 ∧ decode 0x00001001 = .ok (.siphash 16))
  ∧ (encode (.sipblock 21 false) = 0x00001502 ∧ decode 0x00001502 = .ok (.sipblock 21 false))
  ∧ (encode (.sipblock 21 true) = 0x00001512 ∧ decode 0x00001512 = .ok (.sipblock 21 true))
  ∧ (encode (.sipblock 25 false) = 0x00001902 ∧ decode 0x00001902 = .ok (.sipblock 25 false))
  ∧ (encode (.sipnode false false) = 0x00000003 ∧ decode 0x00000003 = .ok (.sipnode false false))
  ∧ (encode (.sipnode true false) = 0x00000023 ∧ decode 0x00000023 = .ok (.sipnode true false))
  ∧ (encode (.sipnode false true) = 0x00000043 ∧ decode 0x00000043 = .ok (.sipnode false true))
  ∧ (encode (.sipnode true true) = 0x00000063 ∧ decode 0x00000063 = .ok (.sipnode true true))
  ∧ (encode (.seed false) = 0x00000004 ∧ decode 0x00000004 = .ok (.seed false))
  ∧ (encode (.seed true) = 0x00000084 ∧ decode 0x00000084 = .ok (.seed true))

/-- 30_encoding.md R98: the illegal words are those with a reserved opcode, RSV set or an unused field set; every other word
decodes. An illegal word written to CMD while IDLE is recorded in CMD, completes at once with ILLEGAL_CMD and changes
no other register. -/
def Obligations.IllegalWordsCompleteWithIllegalCmd : Prop :=
  (∀ w : Word32, illegalWord w ↔ ∃ e, decode w = .error e)
  ∧ ∀ (s : State) (rest : List Event) (w : Word32), s.phase = .idle → s.events = .host (.write .word 0x010 w) :: rest →
      illegalWord w →
      step s = .next { s with
        cmd := w, done := true, err := true, errcode := 1,
        events := rest, response := some ⟨.okay, 0⟩, hostFault := some (.commandError .illegalCmd) }

/-! ### A step runs the decoded command -/

/-- 40_commands.md R111: an accepted CMD write runs the decoded command; around it the step takes the input from the queue and
answers OKAY. -/
def Obligations.CmdWriteRunsTheDecodedCommand : Prop :=
  ∀ (s : State) (rest : List Event) (w : Word32) (i : Instr), s.phase = .idle →
    s.events = .host (.write .word 0x010 w) :: rest → decode w = .ok i →
    step s = exec i { s with events := rest, response := some ⟨.okay, 0⟩, hostFault := none }

/-- 40_commands.md R115: the engine's turn runs the command of the snapshot. -/
def Obligations.EngineTurnRunsTheSnapshotCommand : Prop :=
  ∀ (s : State) (rest : List Event) (snap : Snapshot) (i : Instr), s.phase = .busy snap → s.EngineNext rest →
    decode snap.w = .ok i →
    step s = exec i { s with events := rest, response := none, hostFault := none }

/-- The placed word is the one the next step runs, whatever the state before (log entry 10). -/
def Obligations.PlacedWordRunsNext : Prop :=
  ∀ (s : State) (w : Nat) (i : Instr), decodeTableWord 32 w = some i →
    step (s.withFetchWord 32 w) = exec i { s with phase := .idle, response := some ⟨.okay, 0⟩, hostFault := none }

/-! ### Acceptance -/

/-- 40_commands.md R117: NOP completes in its acceptance step; CMD, DONE, ERR and ERRCODE are all it writes. -/
def Obligations.NopCompletesAtAcceptance : Prop :=
  ∀ s : State, s.phase = .idle →
    exec .nop s = .next { s with cmd := 0, done := true, err := false, errcode := 0 }

/-- 40_commands.md R111 to R114: a compute command that passes its checks takes the snapshot of the operands, clears DONE, ERR
and ERRCODE and goes BUSY; it writes nothing else. -/
def Obligations.ComputeCommandsTakeTheirSnapshot : Prop :=
  ∀ s : State, s.phase = .idle →
    (∀ rot : BitVec 8, 1 ≤ rot.toNat → rot.toNat ≤ 63 →
      exec (.siphash rot) s = .next { s with
        cmd := encode (.siphash rot), done := false, err := false, errcode := 0,
        phase := .busy ⟨encode (.siphash rot), s.keys, s.nonce, s.edgeBits, s.hlen, s.hnonce, []⟩ })
    ∧ (∀ (rot : BitVec 8) (xa : Bool), 1 ≤ rot.toNat → rot.toNat ≤ 63 →
      exec (.sipblock rot xa) s = .next { s with
        cmd := encode (.sipblock rot xa), done := false, err := false, errcode := 0,
        phase := .busy ⟨encode (.sipblock rot xa), s.keys, s.nonce, s.edgeBits, s.hlen, s.hnonce, []⟩ })
    ∧ (∀ uorv sh : Bool,
      exec (.sipnode uorv sh) s = .next { s with
        cmd := encode (.sipnode uorv sh), done := false, err := false, errcode := 0,
        phase := .busy ⟨encode (.sipnode uorv sh), s.keys, s.nonce, s.edgeBits, s.hlen, s.hnonce, []⟩ })
    ∧ (∀ ne : Bool, s.hlen.toNat ≤ s.build.hbufSize → (ne = true → 4 ≤ s.hlen.toNat) →
      exec (.seed ne) s = .next { s with
        cmd := encode (.seed ne), done := false, err := false, errcode := 0,
        phase := .busy ⟨encode (.seed ne), s.keys, s.nonce, s.edgeBits, s.hlen, s.hnonce,
          (List.range s.hlen.toNat).map fun k => s.hbuf.read k⟩ })

/-- 30_encoding.md R97: SIPHASH and SIPBLOCK with ROT = 0 or ROT > 63 complete at once with BAD_ROT and write no result, and
in every state with the invariant the rotation of a command in flight is in 1..63. -/
def Obligations.BadRotationIsRejected : Prop :=
  (∀ (s : State) (rot : BitVec 8) (xa : Bool), s.phase = .idle → (rot.toNat = 0 ∨ 63 < rot.toNat) →
    exec (.siphash rot) s = .next { s with
      cmd := encode (.siphash rot), done := true, err := true, errcode := 2,
      hostFault := some (.commandError .badRot) }
    ∧ exec (.sipblock rot xa) s = .next { s with
      cmd := encode (.sipblock rot xa), done := true, err := true, errcode := 2,
      hostFault := some (.commandError .badRot) })
  ∧ ∀ (s : State) (snap : Snapshot) (rot : BitVec 8), s.Inv → s.phase = .busy snap →
      (decode snap.w = .ok (.siphash rot) ∨ ∃ xa, decode snap.w = .ok (.sipblock rot xa)) →
      1 ≤ rot.toNat ∧ rot.toNat ≤ 63

/-- 44_graphparams.md R203, 60_exceptions.md R222: SEED over a header longer than HBUF, or with a nonce and fewer than 4 bytes,
completes at once with BAD_HLEN and writes no result. -/
def Obligations.BadHeaderLengthIsRejected : Prop :=
  ∀ (s : State) (ne : Bool), s.phase = .idle →
    (s.build.hbufSize < s.hlen.toNat ∨ (ne = true ∧ s.hlen.toNat < 4)) →
    exec (.seed ne) s = .next { s with
      cmd := encode (.seed ne), done := true, err := true, errcode := 3,
      hostFault := some (.commandError .badHlen) }

/-- 60_exceptions.md R224: the order of the checks of a CMD write: the busy drop, ILLEGAL_CMD, BAD_ROT, BAD_HLEN; a command that
passes them all leaves ERRCODE 0. -/
def Obligations.ChecksAreMadeInOrder : Prop :=
  ∀ (s : State) (rest : List Event) (w : Word32), s.events = .host (.write .word 0x010 w) :: rest →
    (∀ snap, s.phase = .busy snap → step s = .next { s with
      werr := true, events := rest, response := some ⟨.okay, 0⟩, hostFault := some (.droppedWrite 0x010) })
    ∧ (s.phase = .idle → ∃ t, step s = .next t ∧ t.cmd = w
        ∧ (illegalWord w → t.errcode = 1)
        ∧ (¬ illegalWord w → (fieldOp w = 1 ∨ fieldOp w = 2) → ((fieldRot w).toNat = 0 ∨ 63 < (fieldRot w).toNat) →
            t.errcode = 2)
        ∧ (¬ illegalWord w → fieldOp w = 4 →
            (s.build.hbufSize < s.hlen.toNat ∨ (fieldNe w = true ∧ s.hlen.toNat < 4)) → t.errcode = 3)
        ∧ (¬ illegalWord w →
            ¬ ((fieldOp w = 1 ∨ fieldOp w = 2) ∧ ((fieldRot w).toNat = 0 ∨ 63 < (fieldRot w).toNat)) →
            ¬ (fieldOp w = 4 ∧ (s.build.hbufSize < s.hlen.toNat ∨ (fieldNe w = true ∧ s.hlen.toNat < 4))) →
            t.errcode = 0))

/-! ### Completion -/

/-- 41_keyedhash.md R133: the completion of SIPHASH writes OUT, the status and nothing else. -/
def Obligations.SiphashCompletesWithKeyedHash : Prop :=
  ∀ (s : State) (snap : Snapshot) (rot : BitVec 8), s.phase = .busy snap →
    exec (.siphash rot) s = .next { s with
      out := keyedHash snap.keys snap.nonce rot.toNat, phase := .idle, done := true, err := false, errcode := 0 }

/-- 42_blockhash.md R152: the completion of SIPBLOCK writes OUT, the status and nothing else. -/
def Obligations.SipblockCompletesWithBlockHash : Prop :=
  ∀ (s : State) (snap : Snapshot) (rot : BitVec 8) (xa : Bool), s.phase = .busy snap →
    exec (.sipblock rot xa) s = .next { s with
      out := blockHash snap.keys snap.nonce rot.toNat xa, phase := .idle, done := true, err := false, errcode := 0 }

/-- 44_graphparams.md R204, R205: the completion of SIPNODE writes OUT, the status and nothing else. The node is the hash of
`2·edge + UORV` masked to EDGE_BITS bits, shifted left with UORV in bit 0 if SH = 1. -/
def Obligations.SipnodeCompletesWithTheEndpoint : Prop :=
  ∀ (s : State) (snap : Snapshot) (uorv : Bool), s.phase = .busy snap →
    exec (.sipnode uorv false) s = .next { s with
      out := BitVec.ofNat 64
        ((keyedHash snap.keys (2 * snap.nonce + BitVec.ofNat 64 uorv.toNat) 21).toNat % 2 ^ snap.edgeBits.toNat),
      phase := .idle, done := true, err := false, errcode := 0 }
    ∧ exec (.sipnode uorv true) s = .next { s with
      out := BitVec.ofNat 64
        (2 * ((keyedHash snap.keys (2 * snap.nonce + BitVec.ofNat 64 uorv.toNat) 21).toNat % 2 ^ snap.edgeBits.toNat)
          + uorv.toNat),
      phase := .idle, done := true, err := false, errcode := 0 }

/-- 44_graphparams.md R201 to R203: the completion of SEED whose digest input is the bytes `m`, all of them written: K0..K3 and
DIGEST0..7 are the little-endian words of the digest of `m`; the status is written and nothing else. -/
def Obligations.SeedCompletesWithTheSplitDigest : Prop :=
  ∀ (s : State) (snap : Snapshot) (ne : Bool) (m : List Byte), s.phase = .busy snap →
    seedInput snap ne = m.map some →
    exec (.seed ne) s = .next { s with
      keys := ⟨le64 (digest256 s.build.digestAlg m) 0, le64 (digest256 s.build.digestAlg m) 8,
        le64 (digest256 s.build.digestAlg m) 16, le64 (digest256 s.build.digestAlg m) 24⟩,
      digest := ⟨le32 (digest256 s.build.digestAlg m) 0, le32 (digest256 s.build.digestAlg m) 4,
        le32 (digest256 s.build.digestAlg m) 8, le32 (digest256 s.build.digestAlg m) 12,
        le32 (digest256 s.build.digestAlg m) 16, le32 (digest256 s.build.digestAlg m) 20,
        le32 (digest256 s.build.digestAlg m) 24, le32 (digest256 s.build.digestAlg m) 28⟩,
      phase := .idle, done := true, err := false, errcode := 0 }

/-- The model's choice (log entry 5, after 70_reset_and_hazards.md R268 and U2): SEED over a byte that no host write has reached
completes with the digest of some bytes that agree with every written byte of its input, and reports the fault of the
host program. It holds whatever the free bytes are. -/
def Obligations.SeedOverUnwrittenBytesCompletes : Prop :=
  ∀ (s : State) (snap : Snapshot) (ne : Bool), s.phase = .busy snap → none ∈ seedInput snap ne →
    ∃ (m : List Byte) (n : Nat), m.length = (seedInput snap ne).length
      ∧ (∀ (k : Nat) (b : Byte), (seedInput snap ne)[k]? = some (some b) → m[k]? = some b)
      ∧ exec (.seed ne) s = .next { s with
          keys := seedKeys (digest256 s.build.digestAlg m), digest := seedDigestRegs (digest256 s.build.digestAlg m),
          phase := .idle, done := true, err := false, errcode := 0, hostFault := some .unwrittenHeader, draws := n }

/-- 44_graphparams.md R201: the digest input has the header's length; with a nonce its last 4 bytes are HNONCE, least
significant first, and the bytes before them are the header's; without one it is the header. -/
def Obligations.TheNonceOverwritesTheLastFourBytes : Prop :=
  ∀ snap : Snapshot, snap.hbuf.length = snap.hlen.toNat →
    seedInput snap false = snap.hbuf
    ∧ (4 ≤ snap.hlen.toNat →
        (seedInput snap true).length = snap.hlen.toNat
        ∧ (∀ k, k < snap.hlen.toNat - 4 → (seedInput snap true)[k]? = snap.hbuf[k]?)
        ∧ (∀ k, k < 4 → (seedInput snap true)[snap.hlen.toNat - 4 + k]?
            = some (some (snap.hnonce.extractLsb' (8 * k) 8))))

/-- 40_commands.md R120: the registers each command writes at completion, and that a command which is accepted or completes
with an error writes no result register. No other register and no byte of HBUF changes. -/
def Obligations.OnlyTheListedRegistersAreWritten : Prop :=
  ∀ (i : Instr) (s t : State), exec i s = .next t →
    (t.build = s.build ∧ t.ie = s.ie ∧ t.werr = s.werr ∧ t.nonce = s.nonce ∧ t.edgeBits = s.edgeBits
      ∧ t.hlen = s.hlen ∧ t.hnonce = s.hnonce ∧ (∀ a, t.hbuf.read a = s.hbuf.read a) ∧ t.events = s.events
      ∧ t.response = s.response)
    ∧ (s.phase = .idle → t.out = s.out ∧ t.keys = s.keys ∧ t.digest = s.digest)
    ∧ (∀ snap, s.phase = .busy snap → t.cmd = s.cmd
        ∧ (i = .nop → t.out = s.out ∧ t.keys = s.keys ∧ t.digest = s.digest)
        ∧ (∀ ne, i = .seed ne → t.out = s.out)
        ∧ ((∀ ne, i ≠ .seed ne) → t.keys = s.keys ∧ t.digest = s.digest))

/-! ### Whole commands -/

/-- 40_commands.md R112, 70_reset_and_hazards.md R265, R266: whatever the host does between the acceptance and the completion
of SIPHASH, SIPBLOCK or SIPNODE, short of a soft reset, OUT is the result of the operands at acceptance, and no operand
changes. -/
def Obligations.HostAccessesDoNotDisturbARunningCommand : Prop :=
  ∀ (s : State) (i : Instr) (r : Word64) (accs : List Access) (rest : List Event), s.phase = .idle →
    commandOut s i = some r →
    (∀ a ∈ accs, ¬ (Event.host a).Resets) →
    s.events = .host (.write .word 0x010 (encode i)) :: (accs.map Event.host ++ .engine :: rest) →
    ∃ t, runSteps (accs.length + 2) s = .next t ∧ t.out = r ∧ t.phase = .idle
      ∧ t.done = true ∧ t.err = false ∧ t.errcode = 0 ∧ t.cmd = encode i
      ∧ t.keys = s.keys ∧ t.nonce = s.nonce ∧ t.edgeBits = s.edgeBits ∧ t.hlen = s.hlen ∧ t.hnonce = s.hnonce
      ∧ t.digest = s.digest ∧ (∀ a, t.hbuf.read a = s.hbuf.read a) ∧ t.events = rest

/-- 44_graphparams.md R201 to R203 and 40_commands.md R112: the same for SEED: the header bytes and HNONCE at acceptance decide
K0..K3 and DIGEST0..7; HBUF is not written. -/
def Obligations.HostAccessesDoNotDisturbARunningSeed : Prop :=
  ∀ (s : State) (ne : Bool) (m : List Byte) (accs : List Access) (rest : List Event), s.phase = .idle →
    m.length = s.hlen.toNat → s.hlen.toNat ≤ s.build.hbufSize → (ne = true → 4 ≤ s.hlen.toNat) →
    (∀ k, k < s.hlen.toNat → (ne = true → k < s.hlen.toNat - 4) → s.hbuf.read k = m[k]?) →
    (ne = true → m.drop (s.hlen.toNat - 4) = bytesLE32 s.hnonce) →
    (∀ a ∈ accs, ¬ (Event.host a).Resets) →
    s.events = .host (.write .word 0x010 (encode (.seed ne))) :: (accs.map Event.host ++ .engine :: rest) →
    ∃ t, runSteps (accs.length + 2) s = .next t
      ∧ t.keys = seedKeys (digest256 s.build.digestAlg m)
      ∧ t.digest = seedDigestRegs (digest256 s.build.digestAlg m)
      ∧ t.phase = .idle ∧ t.done = true ∧ t.err = false ∧ t.errcode = 0
      ∧ t.out = s.out ∧ t.nonce = s.nonce ∧ t.hlen = s.hlen ∧ t.hnonce = s.hnonce
      ∧ (∀ a, t.hbuf.read a = s.hbuf.read a) ∧ t.events = rest

/-! ### Who changes what -/

/-- 40_commands.md R110: from IDLE only the acceptance of a compute command that passes its checks leaves IDLE, and every
other command completes in its acceptance step; from BUSY only the completion and a reset leave, to IDLE. -/
def Obligations.OnlyTheListedStepsChangeThePhase : Prop :=
  ∀ s t : State, step s = .next t →
    (∀ (rest : List Event) (w : Word32), s.phase = .idle → s.events = .host (.write .word 0x010 w) :: rest →
      (passesChecks s.build s.hlen w = true → t.phase = .busy (s.takeSnapshot w))
      ∧ (passesChecks s.build s.hlen w = false → t.phase = .idle ∧ t.done = true))
    ∧ (s.phase = .idle → t.phase ≠ .idle →
        ∃ rest w, s.events = .host (.write .word 0x010 w) :: rest ∧ passesChecks s.build s.hlen w = true)
    ∧ (∀ snap, s.phase = .busy snap → t.phase ≠ .busy snap →
        t.phase = .idle ∧ ((∃ rest, s.EngineNext rest) ∨ s.ResetNext))
    ∧ (∀ rest, s.EngineNext rest → t.phase = .idle)
    ∧ (s.ResetNext → t.phase = .idle)

/-- 10_state.md R33, R34: OUT and DIGEST0..7 change only in a completion step and at reset; K0..K3 moreover by a host write
while IDLE (R27). -/
def Obligations.ResultsChangeOnlyAtCompletionOrReset : Prop :=
  ∀ s t : State, step s = .next t →
    (t.out ≠ s.out ∨ t.digest ≠ s.digest →
      (∃ rest snap, s.EngineNext rest ∧ s.phase = .busy snap) ∨ s.ResetNext)
    ∧ (t.keys ≠ s.keys →
      (∃ rest snap, s.EngineNext rest ∧ s.phase = .busy snap) ∨ s.ResetNext
        ∨ (s.phase = .idle ∧ ∃ rest off v, s.events = .host (.write .word off v) :: rest
            ∧ 0x020 ≤ off.toNat ∧ off.toNat ≤ 0x03C))

/-- 10_state.md R25, 60_exceptions.md R228: WERR is set by a dropped write alone, and cleared by writing 1 to bit 3 of STATUS or
by a reset alone: no command, accepted or completed, clears it. -/
def Obligations.WerrIsSticky : Prop :=
  ∀ s t : State, step s = .next t →
    (s.werr = false → t.werr = true →
      ∃ snap rest off v l, s.phase = .busy snap ∧ s.events = .host (.write .word off v) :: rest
        ∧ locate s.build off = some l ∧ l.busyLocked = true)
    ∧ (s.werr = true → t.werr = false →
      s.ResetNext ∨ ∃ rest v, s.events = .host (.write .word 0x00C v) :: rest ∧ v.getLsbD 3 = true)

/-- 10_state.md R40, 60_exceptions.md R226: `irq` is IE and DONE; a completion, of the engine or in the acceptance step, raises
it if IE = 1; clearing DONE, the acceptance of a compute command, a reset and IE = 0 make it fall, and IE = 0 leaves DONE as it was. -/
def Obligations.IrqFollowsDoneAndEnable : Prop :=
  ∀ s t : State, step s = .next t →
    (t.irq = true ↔ t.ie = true ∧ t.done = true)
    ∧ (∀ rest snap, s.EngineNext rest → s.phase = .busy snap → t.irq = s.ie)
    ∧ (∀ rest w, s.phase = .idle → s.events = .host (.write .word 0x010 w) :: rest →
        passesChecks s.build s.hlen w = false → t.irq = s.ie)
    ∧ (∀ rest v, s.events = .host (.write .word 0x00C v) :: rest → v.getLsbD 1 = true → t.irq = false)
    ∧ (s.phase = .idle → t.phase ≠ .idle → t.irq = false)
    ∧ (s.ResetNext → t.irq = false)
    ∧ (∀ rest v, s.events = .host (.write .word 0x008 v) :: rest → v.getLsbD 1 = false → v.getLsbD 0 = false →
        t.irq = false ∧ t.done = s.done)

/-! ### Reset -/

/-- 70_reset_and_hazards.md R261: `rst_n` puts every register at its reset value, the engine in IDLE and HBUF without a value;
`irq` and BUSY are 0, no error is reported, and the CMD write that comes next is accepted. -/
def Obligations.ResetInputResetsTheCore : Prop :=
  ∀ (s : State) (rest : List Event), s.events = .rstN :: rest →
    step s = .next { State.resetOf s.build with events := rest, draws := s.draws }
    ∧ ({ State.resetOf s.build with events := rest, draws := s.draws } : State).irq = false
    ∧ ({ State.resetOf s.build with events := rest, draws := s.draws } : State).statusWord = 0
    ∧ ∀ (w : Word32) (rest' : List Event), rest = .host (.write .word 0x010 w) :: rest' →
        ∃ t, runSteps 2 s = .next t ∧ t.cmd = w ∧ t.werr = false

/-- 70_reset_and_hazards.md R262: a write to CTRL with SRST = 1 resets the core whatever the phase, with an OKAY answer, and
discards its other bits; twice in a row is the same as once. A write with SRST = 0 only updates IE. SRST reads 0. -/
def Obligations.SoftResetThroughCtrl : Prop :=
  ∀ (s : State) (rest : List Event) (v : Word32),
    (s.events = .host (.write .word 0x008 v) :: rest → v.getLsbD 1 = true →
      step s = .next { State.resetOf s.build with
        events := rest, response := some ⟨.okay, 0⟩, draws := s.draws })
    ∧ (∀ v' : Word32, v.getLsbD 1 = true → v'.getLsbD 1 = true →
      runSteps 2 { s with events := .host (.write .word 0x008 v) :: .host (.write .word 0x008 v') :: rest }
        = runSteps 1 { s with events := .host (.write .word 0x008 v) :: rest })
    ∧ (s.events = .host (.write .word 0x008 v) :: rest → v.getLsbD 1 = false →
      step s = .next { s with
        ie := v.getLsbD 0, events := rest, response := some ⟨.okay, 0⟩, hostFault := none })
    ∧ s.readLoc .ctrl = (if s.ie then 1 else 0)

/-! ### The bus -/

/-- 10_state.md R22: the register map: which location stands at each offset, whether it is read-only and whether it is
busy-locked; the reserved offsets have none. -/
def Obligations.TheRegisterMap : Prop :=
  ∀ b : Build,
    (∀ row ∈ ([ (0x000, .id, true, false), (0x004, .caps, true, false), (0x008, .ctrl, false, false),
        (0x00C, .status, false, false), (0x010, .cmd, false, true), (0x048, .edgeBits, false, true),
        (0x058, .hlen, false, true), (0x05C, .hnonce, false, true) ] : List (BitVec 13 × Loc × Bool × Bool)),
      locate b row.1 = some row.2.1 ∧ row.2.1.readOnly = row.2.2.1 ∧ row.2.1.busyLocked = row.2.2.2)
    ∧ (∀ (j : Fin 4), locate b (BitVec.ofNat 13 (0x020 + 8 * j.val)) = some (.key j .lo)
        ∧ locate b (BitVec.ofNat 13 (0x024 + 8 * j.val)) = some (.key j .hi))
    ∧ (∀ (w : Fin 8), locate b (BitVec.ofNat 13 (0x080 + 4 * w.val)) = some (.digest w))
    ∧ (locate b 0x040 = some (.nonce .lo) ∧ locate b 0x044 = some (.nonce .hi))
    ∧ (locate b 0x050 = some (.edgeMask .lo) ∧ locate b 0x054 = some (.edgeMask .hi))
    ∧ (locate b 0x060 = some (.out .lo) ∧ locate b 0x064 = some (.out .hi))
    ∧ (∀ j, 4 * j < b.hbufSize → locate b (BitVec.ofNat 13 (0x1000 + 4 * j)) = some (.hbuf j))
    ∧ (∀ off : BitVec 13, off.toNat % 4 ≠ 0 ∨ reservedOffset b off.toNat ↔ locate b off = none)
    ∧ (∀ j h, (Loc.key j h).readOnly = false ∧ (Loc.key j h).busyLocked = true)
    ∧ (∀ h, (Loc.nonce h).readOnly = false ∧ (Loc.nonce h).busyLocked = true)
    ∧ (∀ h, (Loc.edgeMask h).readOnly = true ∧ (Loc.edgeMask h).busyLocked = false)
    ∧ (∀ h, (Loc.out h).readOnly = true ∧ (Loc.out h).busyLocked = false)
    ∧ (∀ w, (Loc.digest w).readOnly = true ∧ (Loc.digest w).busyLocked = false)
    ∧ (∀ j, (Loc.hbuf j).readOnly = false ∧ (Loc.hbuf j).busyLocked = true)

/-- 20_memory.md R64: a bad access gets ERROR with data 0, changes no state of the core and is reported with its offset; every
other access gets OKAY. -/
def Obligations.BadAccessesGetABusError : Prop :=
  ∀ (s : State) (a : Access) (rest : List Event), s.events = .host a :: rest →
    (badAccess s.build a → step s = .next { s with
      events := rest, response := some ⟨.error, 0⟩, hostFault := some (.busError a.size a.offset) })
    ∧ (¬ badAccess s.build a → ∃ t d, step s = .next t ∧ t.response = some ⟨.okay, d⟩)

/-- 20_memory.md R71: a write to a busy-locked location while BUSY is dropped with WERR and OKAY; writes to CTRL and STATUS are
never dropped, writes to read-only registers are ignored whatever the phase, and while IDLE no write is dropped. -/
def Obligations.BusyLockedWritesAreDropped : Prop :=
  ∀ (s : State) (rest : List Event) (off : BitVec 13) (v : Word32) (l : Loc),
    s.events = .host (.write .word off v) :: rest → locate s.build off = some l →
    (∀ snap, s.phase = .busy snap →
      (l = .cmd ∨ (∃ j h, l = .key j h) ∨ (∃ h, l = .nonce h) ∨ l = .edgeBits ∨ l = .hlen ∨ l = .hnonce
        ∨ (∃ j, l = .hbuf j)) →
      step s = .next { s with
        werr := true, events := rest, response := some ⟨.okay, 0⟩, hostFault := some (.droppedWrite off) })
    ∧ ((l = .id ∨ l = .caps ∨ (∃ h, l = .edgeMask h) ∨ (∃ h, l = .out h) ∨ (∃ w, l = .digest w)) →
      step s = .next { s with events := rest, response := some ⟨.okay, 0⟩, hostFault := none })
    ∧ ((l = .ctrl ∨ l = .status ∨ (s.phase = .idle ∧ l ≠ .cmd)) →
      step s = .next (State.writeLoc l v { s with events := rest, response := some ⟨.okay, 0⟩, hostFault := none }))
    ∧ (s.phase = .idle → l = .cmd → ∃ t, step s = .next t ∧ t.cmd = v ∧ t.werr = s.werr
      ∧ t.response = some ⟨.okay, 0⟩)

/-- 20_memory.md R65, R67, R69: a read of any location changes no state of the core: it leaves the bus response and, where a
byte of HBUF holds no value, the model's draw counter (log entry 4). A read of written bytes and registers leaves that
too. A word read of a register answers OKAY with the register's own value, one of an HBUF word OKAY with every written
byte in its place. -/
def Obligations.ReadsHaveNoSideEffect : Prop :=
  (∀ (s : State) (rest : List Event) (size : AccessSize) (off : BitVec 13), s.events = .host (.read size off) :: rest →
    ∃ r f n, step s = .next { s with events := rest, response := some r, hostFault := f, draws := n }
      ∧ ((∀ j, locate s.build off = some (.hbuf j) → ∀ k, k < 4 → s.hbuf.read (4 * j + k) ≠ none) → n = s.draws)
      ∧ (∀ j, size = .word → locate s.build off = some (.hbuf j) → r.code = .okay ∧ f = none
          ∧ ∀ k b, k < 4 → s.hbuf.read (4 * j + k) = some b → r.data.extractLsb' (8 * k) 8 = b))
  ∧ ∀ (s : State) (rest : List Event) (off : BitVec 13) (d : Word32), (off, d) ∈ s.registerValues →
      s.events = .host (.read .word off) :: rest →
      step s = .next { s with events := rest, response := some ⟨.okay, d⟩, hostFault := none }

/-- 20_memory.md R69, 10_state.md R29, R31, R36: a write to an operand register while IDLE writes that register, or that half of
it, and nothing else, with an OKAY answer; it is what the next read returns, reserved bits read as 0. The other half of
a 64-bit register and the other key words read as before. -/
def Obligations.RegisterWritesReadBack : Prop :=
  (∀ (s : State) (rest : List Event) (off : BitVec 13) (v : Word32) (t : State), s.phase = .idle →
    s.events = .host (.write .word off v) :: rest → (off, t) ∈ s.registerWrites v →
    step s = .next { t with events := rest, response := some ⟨.okay, 0⟩, hostFault := none })
  ∧ ∀ (s : State) (v : Word32),
    (∀ j h, (s.writeLoc (.key j h) v).readLoc (.key j h) = v
      ∧ ∀ j' h', (j', h') ≠ (j, h) → (s.writeLoc (.key j h) v).readLoc (.key j' h') = s.readLoc (.key j' h'))
    ∧ (∀ h, (s.writeLoc (.nonce h) v).readLoc (.nonce h) = v
      ∧ ∀ h', h' ≠ h → (s.writeLoc (.nonce h) v).readLoc (.nonce h') = s.readLoc (.nonce h'))
    ∧ (s.writeLoc .edgeBits v).readLoc .edgeBits = BitVec.ofNat 32 (v.toNat % 64)
    ∧ (s.writeLoc .hlen v).readLoc .hlen = BitVec.ofNat 32 (v.toNat % 65536)
    ∧ (s.writeLoc .hnonce v).readLoc .hnonce = v
    ∧ ∀ j, (s.writeLoc (.hbuf j) v).readLoc (.hbuf j) = v

/-- 20_memory.md R67: a write of HBUF word `j` while IDLE stores its four bytes, least significant first, at `4j..4j+3`; every
byte outside them reads as before, and no register changes. -/
def Obligations.HbufWordWriteStoresFourBytes : Prop :=
  ∀ (s : State) (rest : List Event) (off : BitVec 13) (v : Word32) (j : Nat), s.phase = .idle →
    s.events = .host (.write .word off v) :: rest → off.toNat = 0x1000 + 4 * j → 4 * j < s.build.hbufSize →
    ∃ m : Memory, step s = .next { s with
        hbuf := m, events := rest, response := some ⟨.okay, 0⟩, hostFault := none }
      ∧ (∀ k, k < 4 → m.read (4 * j + k) = some (v.extractLsb' (8 * k) 8))
      ∧ (∀ a, (a < 4 * j ∨ 4 * j + 4 ≤ a) → m.read a = s.hbuf.read a)

/-- 20_memory.md R67: a host read of an HBUF word whose four bytes have been written returns them, least significant first. -/
def Obligations.HbufWordReadReturnsFourBytes : Prop :=
  ∀ (s : State) (rest : List Event) (off : BitVec 13) (j : Nat) (b0 b1 b2 b3 : Byte),
    s.events = .host (.read .word off) :: rest → off.toNat = 0x1000 + 4 * j → 4 * j < s.build.hbufSize →
    s.hbuf.read (4 * j) = some b0 → s.hbuf.read (4 * j + 1) = some b1 →
    s.hbuf.read (4 * j + 2) = some b2 → s.hbuf.read (4 * j + 3) = some b3 →
    step s = .next { s with
      events := rest, response := some ⟨.okay, b3 ++ b2 ++ b1 ++ b0⟩, hostFault := none }

/-- 10_state.md R25: the bits of STATUS, and that a write to STATUS clears each of DONE, ERR and WERR whose written bit is 1 and
changes nothing else, in either phase. -/
def Obligations.StatusFieldsAndWriteOneToClear : Prop :=
  ∀ s : State,
    ((s.readLoc .status).getLsbD 0 = s.phase.isBusy ∧ (s.readLoc .status).getLsbD 1 = s.done
      ∧ (s.readLoc .status).getLsbD 2 = s.err ∧ (s.readLoc .status).getLsbD 3 = s.werr
      ∧ (s.readLoc .status).extractLsb' 4 4 = s.errcode ∧ (s.readLoc .status).extractLsb' 8 24 = 0)
    ∧ ∀ (rest : List Event) (v : Word32), s.events = .host (.write .word 0x00C v) :: rest →
        step s = .next { s with
          done := s.done && !v.getLsbD 1, err := s.err && !v.getLsbD 2, werr := s.werr && !v.getLsbD 3,
          events := rest, response := some ⟨.okay, 0⟩, hostFault := none }

/-- 10_state.md R30, 44_graphparams.md R200: EDGE_MASK reads `2^EDGE_BITS − 1` in its two halves, changes in the step of the
write to EDGE_BITS, ignores writes, and is 0 after reset. -/
def Obligations.EdgeMaskIsAllOnesBelowEdgeBits : Prop :=
  (∀ s : State,
    (s.readLoc (.edgeMask .hi) ++ s.readLoc (.edgeMask .lo)).toNat = 2 ^ s.edgeBits.toNat - 1
    ∧ ∀ (rest : List Event) (v : Word32), s.phase = .idle → s.events = .host (.write .word 0x048 v) :: rest →
        ∃ t, step s = .next t
          ∧ (t.readLoc (.edgeMask .hi) ++ t.readLoc (.edgeMask .lo)).toNat = 2 ^ (v.toNat % 64) - 1)
  ∧ (∀ (s : State) (h : Half) (v : Word32), s.writeLoc (.edgeMask h) v = s)
  ∧ ∀ (b : Build) (h : Half), (State.resetOf b).readLoc (.edgeMask h) = 0

/-! ### Races -/

/-- 60_exceptions.md R225: a CMD write racing a completion is dropped if the completion is second and accepted if it is first. -/
def Obligations.RacingCommandWrite : Prop :=
  ∀ (s : State) (snap : Snapshot) (w : Word32) (rest : List Event), s.Inv → s.phase = .busy snap →
    (s.events = .host (.write .word 0x010 w) :: .engine :: rest →
      ∃ t, runSteps 2 s = .next t ∧ t.phase = .idle ∧ t.cmd = s.cmd ∧ t.werr = true ∧ t.done = true)
    ∧ (s.events = .engine :: .host (.write .word 0x010 w) :: rest →
      ∃ t, runSteps 2 s = .next t ∧ t.cmd = w ∧ t.werr = s.werr)

/-- 70_reset_and_hazards.md R267: a W1C write of DONE racing a completion leaves DONE set if the completion is second and clears
it if the completion is first. -/
def Obligations.RacingDoneClear : Prop :=
  ∀ (s : State) (snap : Snapshot) (v : Word32) (rest : List Event), s.Inv → s.phase = .busy snap →
    v.getLsbD 1 = true →
    (s.events = .host (.write .word 0x00C v) :: .engine :: rest →
      ∃ t, runSteps 2 s = .next t ∧ t.phase = .idle ∧ t.done = true)
    ∧ (s.events = .engine :: .host (.write .word 0x00C v) :: rest →
      ∃ t, runSteps 2 s = .next t ∧ t.phase = .idle ∧ t.done = false)

/-- 60_exceptions.md R225: a soft reset racing a completion leaves the reset state in either order: reset first, the completion
does not happen; completion first, the reset clears its results. -/
def Obligations.RacingSoftReset : Prop :=
  ∀ (s : State) (snap : Snapshot) (v : Word32) (rest : List Event), s.Inv → s.phase = .busy snap →
    v.getLsbD 1 = true →
    (s.events = .host (.write .word 0x008 v) :: .engine :: rest →
      runSteps 2 s = .next { State.resetOf s.build with events := rest, draws := s.draws })
    ∧ (s.events = .engine :: .host (.write .word 0x008 v) :: rest →
      ∃ n, runSteps 2 s = .next { State.resetOf s.build with
        events := rest, response := some ⟨.okay, 0⟩, draws := n })

/-- 70_reset_and_hazards.md R265: two reads of the halves of a 64-bit result that straddle a completion, in either order, return
one half of the old value and one half of the new: OUT for SIPHASH, SIPBLOCK and SIPNODE, and each of K0..K3 for SEED over
written bytes. -/
def Obligations.TornReadOfTheResult : Prop :=
  (∀ (s : State) (snap : Snapshot) (i : Instr) (r : Word64) (rest : List Event), s.phase = .busy snap →
    decode snap.w = .ok i → snapshotOut snap i = some r →
    (s.events = .host (.read .word 0x060) :: .engine :: .host (.read .word 0x064) :: rest →
      ∃ t u, runSteps 1 s = .next t ∧ t.response = some ⟨.okay, s.out.extractLsb' 0 32⟩
        ∧ runSteps 3 s = .next u ∧ u.response = some ⟨.okay, r.extractLsb' 32 32⟩)
    ∧ (s.events = .host (.read .word 0x064) :: .engine :: .host (.read .word 0x060) :: rest →
      ∃ t u, runSteps 1 s = .next t ∧ t.response = some ⟨.okay, s.out.extractLsb' 32 32⟩
        ∧ runSteps 3 s = .next u ∧ u.response = some ⟨.okay, r.extractLsb' 0 32⟩))
  ∧ ∀ (s : State) (snap : Snapshot) (ne : Bool) (m : List Byte) (j : Fin 4) (lo hi : BitVec 13) (rest : List Event),
    s.phase = .busy snap → decode snap.w = .ok (.seed ne) → seedInput snap ne = m.map some →
    lo.toNat = 0x020 + 8 * j.val → hi.toNat = 0x024 + 8 * j.val →
    (s.events = .host (.read .word lo) :: .engine :: .host (.read .word hi) :: rest →
      ∃ t u, runSteps 1 s = .next t ∧ t.response = some ⟨.okay, (s.keys.get j).extractLsb' 0 32⟩
        ∧ runSteps 3 s = .next u
        ∧ u.response = some ⟨.okay, (le64 (digest256 s.build.digestAlg m) (8 * j.val)).extractLsb' 32 32⟩)
    ∧ (s.events = .host (.read .word hi) :: .engine :: .host (.read .word lo) :: rest →
      ∃ t u, runSteps 1 s = .next t ∧ t.response = some ⟨.okay, (s.keys.get j).extractLsb' 32 32⟩
        ∧ runSteps 3 s = .next u
        ∧ u.response = some ⟨.okay, (le64 (digest256 s.build.digestAlg m) (8 * j.val)).extractLsb' 0 32⟩)

/-! ### The functions -/

/-- 42_blockhash.md R150, R153: the block of a nonce starts at the multiple of 64 below it; the block buffer has 64 hashes, the first is the KeyedHash of the block's first nonce, and each
later one is the output of the state carried on from the one before. The chaining is the spec's general knowledge
(GK3, log entry 17). -/
def Obligations.BlockBufferChains : Prop :=
  ∀ (k : Keys) (nonce : Word64) (re : Nat),
    (blockBase nonce).toNat = nonce.toNat - nonce.toNat % 64
    ∧ (blockBuffer k nonce re).length = 64
    ∧ (blockBuffer k nonce re)[0]? = some (keyedHash k (blockBase nonce) re)
    ∧ (∀ nonce', blockBase nonce' = blockBase nonce → blockBuffer k nonce' re = blockBuffer k nonce re)
    ∧ ∃ v : Nat → SipState, v 0 = SipState.ofKeys k
        ∧ ∀ i, i < 64 → v (i + 1) = sipCore (v i) (blockBase nonce + BitVec.ofNat 64 i) re
            ∧ (blockBuffer k nonce re)[i]? = some (sipLanes (v (i + 1)))

/-- 42_blockhash.md R150, R151: the index of a nonce in its block is its value modulo 64. The closed form of the span: with `xor_all` the target and every later hash, without it the target and
the last hash, and the target alone at index 63; at index 62 both agree. The span without `xor_all` is the spec's general
knowledge (GK4, log entry 17). -/
def Obligations.BlockHashSpan : Prop :=
  ∀ (k : Keys) (nonce : Word64) (re : Nat),
    blockIndex nonce = nonce.toNat % 64
    ∧ blockHash k nonce re true
        = ((blockBuffer k nonce re).drop (blockIndex nonce)).foldr (· ^^^ ·) 0
    ∧ (blockIndex nonce < 63 → blockHash k nonce re false
        = (blockBuffer k nonce re).getD (blockIndex nonce) 0 ^^^ (blockBuffer k nonce re).getD 63 0)
    ∧ (blockIndex nonce = 63 → blockHash k nonce re false = (blockBuffer k nonce re).getD 63 0)
    ∧ (62 ≤ blockIndex nonce → blockHash k nonce re false = blockHash k nonce re true)

/-- 44_graphparams.md R204, R205: an edge and the edge plus 2^63 have the same endpoints; with EDGE_BITS = 0 the endpoint is 0,
or UORV when shifted; unshifted it never exceeds the mask, and shifted it is below `2^(EDGE_BITS+1)` with UORV in bit 0. -/
def Obligations.SipnodeCornerCases : Prop :=
  ∀ (k : Keys) (edge : Word64) (uorv sh : Bool) (eb : BitVec 6),
    sipNode k (edge + 0x8000000000000000) (bit64 uorv) sh (edgeMask eb) = sipNode k edge (bit64 uorv) sh (edgeMask eb)
    ∧ sipNode k edge (bit64 uorv) false (edgeMask 0) = 0
    ∧ sipNode k edge (bit64 uorv) true (edgeMask 0) = bit64 uorv
    ∧ (sipNode k edge (bit64 uorv) false (edgeMask eb)).toNat < 2 ^ eb.toNat
    ∧ (sipNode k edge (bit64 uorv) true (edgeMask eb)).toNat < 2 ^ (eb.toNat + 1)
    ∧ (sipNode k edge (bit64 uorv) true (edgeMask eb)).getLsbD 0 = uorv

/-- 10_state.md R34, 44_graphparams.md R202: the seed split and the digest registers of a digest agree,
`Kj = DIGEST(2j+1) : DIGEST(2j)`, for any byte string. -/
def Obligations.SeedWordsAreDigestRegisterPairs : Prop :=
  ∀ d : List Byte,
    (seedKeys d).k0 = (seedDigestRegs d).d1 ++ (seedDigestRegs d).d0
    ∧ (seedKeys d).k1 = (seedDigestRegs d).d3 ++ (seedDigestRegs d).d2
    ∧ (seedKeys d).k2 = (seedDigestRegs d).d5 ++ (seedDigestRegs d).d4
    ∧ (seedKeys d).k3 = (seedDigestRegs d).d7 ++ (seedDigestRegs d).d6

/-- 43_digest.md R170, R177, R183: either digest has 32 bytes, whatever the message. -/
def Obligations.DigestsHaveThirtyTwoBytes : Prop :=
  ∀ (alg : DigestAlg) (m : List Byte), (digest256 alg m).length = 32

/-- 43_digest.md R171: the padded message is the message, 0x80, the least number of zeros that ends 8 bytes short of a whole
block, and the bit length, most significant byte first; it has `⌈(L + 9)/64⌉` blocks. The padding is the spec's general
knowledge (GK8, log entry 17). -/
def Obligations.ShaPaddingFillsWholeBlocks : Prop :=
  ∀ m : List Byte,
    (shaPad m).length = 64 * ((m.length + 9 + 63) / 64)
    ∧ ∃ k, shaPad m = m ++ [0x80] ++ List.replicate k 0 ++ (bytesLE64 (BitVec.ofNat 64 (8 * m.length))).reverse
        ∧ (m.length + 1 + k) % 64 = 56 ∧ ∀ k' < k, (m.length + 1 + k') % 64 ≠ 56

/-- 43_digest.md R182: BLAKE2b takes `max(1, ⌈L/128⌉)` blocks, and every block has 16 words, its padding among them. -/
def Obligations.BlakeBlocksCoverTheMessage : Prop :=
  ∀ m : List Byte,
    1 ≤ blakeBlocks m.length
    ∧ m.length ≤ 128 * blakeBlocks m.length
    ∧ (m.length ≠ 0 → 128 * (blakeBlocks m.length - 1) < m.length)
    ∧ ∀ j, (blakeBlock m j).length = 16
end

