-- ==== Sys2Proof/Laws/Memory.lean ====
section
/-! SUPPORT. HBUF: what a read returns after a write, and that every write keeps the canonical form
(spec/20_memory.md R67). -/

namespace Sys2Proof.Machine

theorem Memory.wf_iff (m : Memory) : m.wf = true ↔ m.Pairwise fun x y => x.1 < y.1 := by
  simp [Memory.wf]

@[simp] theorem Memory.wf_nil : Memory.wf [] = true := by simp [Memory.wf]

@[simp] theorem Memory.read_nil (i : Nat) : Memory.read [] i = none := rfl

/-- A byte below every listed index holds no value. -/
theorem Memory.read_below {m : Memory} {i : Nat} (h : ∀ c ∈ m, i < c.1) : m.read i = none := by
  induction m with
  | nil => rfl
  | cons c m ih =>
    have hc := h c (by simp)
    simp only [Memory.read]
    rw [if_neg (by omega)]
    exact ih fun d hd => h d (by simp [hd])

/-- A read at the written index returns the written byte. -/
@[simp] theorem Memory.read_write_same (m : Memory) (i : Nat) (v : Byte) : (m.write i v).read i = some v := by
  induction m with
  | nil => simp [Memory.write, Memory.read]
  | cons c m ih =>
    obtain ⟨a, b⟩ := c
    simp only [Memory.write]
    split
    · simp [Memory.read]
    · split
      · simp [Memory.read, *]
      · simp only [Memory.read]
        rw [if_neg (by omega)]
        exact ih

/-- A read at any other index returns what it returned before. -/
theorem Memory.read_write_other (m : Memory) {i k : Nat} (v : Byte) (h : k ≠ i) : (m.write i v).read k = m.read k := by
  induction m with
  | nil => simp [Memory.write, Memory.read, h.symm]
  | cons c m ih =>
    obtain ⟨a, b⟩ := c
    simp only [Memory.write]
    split
    · simp [Memory.read, h.symm]
    · split
      · subst_vars; simp [Memory.read, h.symm]
      · simp [Memory.read, ih]

/-- The indices listed after a write are the written one and those listed before. -/
theorem Memory.mem_write {m : Memory} {i : Nat} {v : Byte} {c : Host.Cell} (h : c ∈ m.write i v) :
    c.1 = i ∨ c ∈ m := by
  induction m with
  | nil => simp [Memory.write] at h; simp [h]
  | cons d m ih =>
    obtain ⟨a, b⟩ := d
    simp only [Memory.write] at h
    split at h
    · rcases List.mem_cons.1 h with rfl | h
      · exact .inl rfl
      · exact .inr h
    · split at h
      · rcases List.mem_cons.1 h with rfl | h
        · exact .inl (by simp_all)
        · exact .inr (by simp [h])
      · rcases List.mem_cons.1 h with rfl | h
        · exact .inr (by simp)
        · rcases ih h with h | h
          · exact .inl h
          · exact .inr (by simp [h])

/-- A write keeps the canonical form. -/
theorem Memory.wf_write {m : Memory} (h : m.wf = true) (i : Nat) (v : Byte) : (m.write i v).wf = true := by
  rw [Memory.wf_iff] at h ⊢
  induction m with
  | nil => simp [Memory.write]
  | cons d m ih =>
    obtain ⟨a, b⟩ := d
    obtain ⟨hd, hm⟩ := List.pairwise_cons.1 h
    simp only [Memory.write]
    split
    · refine List.pairwise_cons.2 ⟨fun c hc => ?_, h⟩
      rcases List.mem_cons.1 hc with rfl | hc
      · assumption
      · have := hd c hc; simp only at *; omega
    · split
      · exact List.pairwise_cons.2 ⟨hd, hm⟩
      · refine List.pairwise_cons.2 ⟨fun c hc => ?_, ih hm⟩
        rcases Memory.mem_write hc with hc | hc
        · simp only; omega
        · exact hd c hc

/-- A word write keeps the canonical form. -/
theorem Memory.wf_writeWord {m : Memory} (h : m.wf = true) (j : Nat) (v : Word32) : (m.writeWord j v).wf = true := by
  simp only [Memory.writeWord]
  exact Memory.wf_write (Memory.wf_write (Memory.wf_write (Memory.wf_write h _ _) _ _) _ _) _ _

/-- The indices listed after a word write are its four and those listed before. -/
theorem Memory.mem_writeWord {m : Memory} {j : Nat} {v : Word32} {c : Host.Cell} (h : c ∈ m.writeWord j v) :
    (4 * j ≤ c.1 ∧ c.1 < 4 * j + 4) ∨ c ∈ m := by
  simp only [Memory.writeWord] at h
  rcases Memory.mem_write h with h | h
  · omega
  · rcases Memory.mem_write h with h | h
    · omega
    · rcases Memory.mem_write h with h | h
      · omega
      · rcases Memory.mem_write h with h | h
        · omega
        · exact .inr h

/-- What every byte reads as after a word write (20_memory.md R67). -/
theorem Memory.read_writeWord (m : Memory) (j k : Nat) (v : Word32) :
    (m.writeWord j v).read k =
      if k = 4 * j then some (v.extractLsb' 0 8)
      else if k = 4 * j + 1 then some (v.extractLsb' 8 8)
      else if k = 4 * j + 2 then some (v.extractLsb' 16 8)
      else if k = 4 * j + 3 then some (v.extractLsb' 24 8)
      else m.read k := by
  simp only [Memory.writeWord]
  split
  · subst_vars
    rw [Memory.read_write_other _ _ (by omega), Memory.read_write_other _ _ (by omega),
      Memory.read_write_other _ _ (by omega), Memory.read_write_same]
  · split
    · subst_vars
      rw [Memory.read_write_other _ _ (by omega), Memory.read_write_other _ _ (by omega), Memory.read_write_same]
    · split
      · subst_vars
        rw [Memory.read_write_other _ _ (by omega), Memory.read_write_same]
      · split
        · subst_vars
          rw [Memory.read_write_same]
        · rw [Memory.read_write_other _ _ (by omega), Memory.read_write_other _ _ (by omega),
            Memory.read_write_other _ _ (by omega), Memory.read_write_other _ _ (by omega)]

@[simp] theorem Memory.length_readBytes (m : Memory) (a n : Nat) : (m.readBytes a n).length = n := by
  simp [Memory.readBytes]

theorem Memory.getElem_readBytes (m : Memory) (a n k : Nat) (h : k < (m.readBytes a n).length) :
    (m.readBytes a n)[k] = m.read (a + k) := by
  simp [Memory.readBytes]

@[simp] theorem length_fillFree (n : Nat) (l : List (Option Byte)) : (fillFree n l).length = l.length := by
  induction l generalizing n with
  | nil => rfl
  | cons b l ih => cases b <;> simp [fillFree, ih]

/-- Bytes that all hold a value are read as they are: no free value is drawn. -/
@[simp] theorem fillFree_map_some (n : Nat) (l : List Byte) : fillFree n (l.map some) = l := by
  induction l generalizing n with
  | nil => rfl
  | cons b l ih => simp [fillFree, ih]

@[simp] theorem drawsAfter_map_some (n : Nat) (l : List Byte) : drawsAfter n (l.map some) = n := by
  simp [drawsAfter]

end Sys2Proof.Machine
end

