-- ==== Sys2Proof/Laws/State.lean ====
section
/-! SUPPORT. What each update of State leaves in each field, one lemma per field and update, each true by `rfl`. -/

namespace Sys2Proof.Machine

section
variable (s : State)

/-! ### accept -/

@[simp] theorem State.accept_build (w : Word32) : (s.accept w).build = s.build := rfl
@[simp] theorem State.accept_ie (w : Word32) : (s.accept w).ie = s.ie := rfl
@[simp] theorem State.accept_done (w : Word32) : (s.accept w).done = false := rfl
@[simp] theorem State.accept_err (w : Word32) : (s.accept w).err = false := rfl
@[simp] theorem State.accept_werr (w : Word32) : (s.accept w).werr = s.werr := rfl
@[simp] theorem State.accept_errcode (w : Word32) : (s.accept w).errcode = 0 := rfl
@[simp] theorem State.accept_cmd (w : Word32) : (s.accept w).cmd = w := rfl
@[simp] theorem State.accept_keys (w : Word32) : (s.accept w).keys = s.keys := rfl
@[simp] theorem State.accept_nonce (w : Word32) : (s.accept w).nonce = s.nonce := rfl
@[simp] theorem State.accept_edgeBits (w : Word32) : (s.accept w).edgeBits = s.edgeBits := rfl
@[simp] theorem State.accept_hlen (w : Word32) : (s.accept w).hlen = s.hlen := rfl
@[simp] theorem State.accept_hnonce (w : Word32) : (s.accept w).hnonce = s.hnonce := rfl
@[simp] theorem State.accept_out (w : Word32) : (s.accept w).out = s.out := rfl
@[simp] theorem State.accept_digest (w : Word32) : (s.accept w).digest = s.digest := rfl
@[simp] theorem State.accept_hbuf (w : Word32) : (s.accept w).hbuf = s.hbuf := rfl
@[simp] theorem State.accept_phase (w : Word32) : (s.accept w).phase = s.phase := rfl
@[simp] theorem State.accept_events (w : Word32) : (s.accept w).events = s.events := rfl
@[simp] theorem State.accept_response (w : Word32) : (s.accept w).response = s.response := rfl
@[simp] theorem State.accept_hostFault (w : Word32) : (s.accept w).hostFault = s.hostFault := rfl
@[simp] theorem State.accept_draws (w : Word32) : (s.accept w).draws = s.draws := rfl

/-! ### raiseError -/

@[simp] theorem State.raiseError_build (c : ErrCode) : (s.raiseError c).build = s.build := rfl
@[simp] theorem State.raiseError_ie (c : ErrCode) : (s.raiseError c).ie = s.ie := rfl
@[simp] theorem State.raiseError_done (c : ErrCode) : (s.raiseError c).done = true := rfl
@[simp] theorem State.raiseError_err (c : ErrCode) : (s.raiseError c).err = true := rfl
@[simp] theorem State.raiseError_werr (c : ErrCode) : (s.raiseError c).werr = s.werr := rfl
@[simp] theorem State.raiseError_errcode (c : ErrCode) : (s.raiseError c).errcode = c.code := rfl
@[simp] theorem State.raiseError_cmd (c : ErrCode) : (s.raiseError c).cmd = s.cmd := rfl
@[simp] theorem State.raiseError_keys (c : ErrCode) : (s.raiseError c).keys = s.keys := rfl
@[simp] theorem State.raiseError_nonce (c : ErrCode) : (s.raiseError c).nonce = s.nonce := rfl
@[simp] theorem State.raiseError_edgeBits (c : ErrCode) : (s.raiseError c).edgeBits = s.edgeBits := rfl
@[simp] theorem State.raiseError_hlen (c : ErrCode) : (s.raiseError c).hlen = s.hlen := rfl
@[simp] theorem State.raiseError_hnonce (c : ErrCode) : (s.raiseError c).hnonce = s.hnonce := rfl
@[simp] theorem State.raiseError_out (c : ErrCode) : (s.raiseError c).out = s.out := rfl
@[simp] theorem State.raiseError_digest (c : ErrCode) : (s.raiseError c).digest = s.digest := rfl
@[simp] theorem State.raiseError_hbuf (c : ErrCode) : (s.raiseError c).hbuf = s.hbuf := rfl
@[simp] theorem State.raiseError_phase (c : ErrCode) : (s.raiseError c).phase = s.phase := rfl
@[simp] theorem State.raiseError_events (c : ErrCode) : (s.raiseError c).events = s.events := rfl
@[simp] theorem State.raiseError_response (c : ErrCode) : (s.raiseError c).response = s.response := rfl
@[simp] theorem State.raiseError_hostFault (c : ErrCode) : (s.raiseError c).hostFault = some (.commandError c) := rfl
@[simp] theorem State.raiseError_draws (c : ErrCode) : (s.raiseError c).draws = s.draws := rfl

/-! ### start -/

@[simp] theorem State.start_build (w : Word32) : (s.start w).build = s.build := rfl
@[simp] theorem State.start_ie (w : Word32) : (s.start w).ie = s.ie := rfl
@[simp] theorem State.start_done (w : Word32) : (s.start w).done = s.done := rfl
@[simp] theorem State.start_err (w : Word32) : (s.start w).err = s.err := rfl
@[simp] theorem State.start_werr (w : Word32) : (s.start w).werr = s.werr := rfl
@[simp] theorem State.start_errcode (w : Word32) : (s.start w).errcode = s.errcode := rfl
@[simp] theorem State.start_cmd (w : Word32) : (s.start w).cmd = s.cmd := rfl
@[simp] theorem State.start_keys (w : Word32) : (s.start w).keys = s.keys := rfl
@[simp] theorem State.start_nonce (w : Word32) : (s.start w).nonce = s.nonce := rfl
@[simp] theorem State.start_edgeBits (w : Word32) : (s.start w).edgeBits = s.edgeBits := rfl
@[simp] theorem State.start_hlen (w : Word32) : (s.start w).hlen = s.hlen := rfl
@[simp] theorem State.start_hnonce (w : Word32) : (s.start w).hnonce = s.hnonce := rfl
@[simp] theorem State.start_out (w : Word32) : (s.start w).out = s.out := rfl
@[simp] theorem State.start_digest (w : Word32) : (s.start w).digest = s.digest := rfl
@[simp] theorem State.start_hbuf (w : Word32) : (s.start w).hbuf = s.hbuf := rfl
@[simp] theorem State.start_phase (w : Word32) : (s.start w).phase = .busy (s.takeSnapshot w) := rfl
@[simp] theorem State.start_events (w : Word32) : (s.start w).events = s.events := rfl
@[simp] theorem State.start_response (w : Word32) : (s.start w).response = s.response := rfl
@[simp] theorem State.start_hostFault (w : Word32) : (s.start w).hostFault = s.hostFault := rfl
@[simp] theorem State.start_draws (w : Word32) : (s.start w).draws = s.draws := rfl

/-! ### complete -/

@[simp] theorem State.complete_build : s.complete.build = s.build := rfl
@[simp] theorem State.complete_ie : s.complete.ie = s.ie := rfl
@[simp] theorem State.complete_done : s.complete.done = true := rfl
@[simp] theorem State.complete_err : s.complete.err = false := rfl
@[simp] theorem State.complete_werr : s.complete.werr = s.werr := rfl
@[simp] theorem State.complete_errcode : s.complete.errcode = 0 := rfl
@[simp] theorem State.complete_cmd : s.complete.cmd = s.cmd := rfl
@[simp] theorem State.complete_keys : s.complete.keys = s.keys := rfl
@[simp] theorem State.complete_nonce : s.complete.nonce = s.nonce := rfl
@[simp] theorem State.complete_edgeBits : s.complete.edgeBits = s.edgeBits := rfl
@[simp] theorem State.complete_hlen : s.complete.hlen = s.hlen := rfl
@[simp] theorem State.complete_hnonce : s.complete.hnonce = s.hnonce := rfl
@[simp] theorem State.complete_out : s.complete.out = s.out := rfl
@[simp] theorem State.complete_digest : s.complete.digest = s.digest := rfl
@[simp] theorem State.complete_hbuf : s.complete.hbuf = s.hbuf := rfl
@[simp] theorem State.complete_phase : s.complete.phase = .idle := rfl
@[simp] theorem State.complete_events : s.complete.events = s.events := rfl
@[simp] theorem State.complete_response : s.complete.response = s.response := rfl
@[simp] theorem State.complete_hostFault : s.complete.hostFault = s.hostFault := rfl
@[simp] theorem State.complete_draws : s.complete.draws = s.draws := rfl

/-! ### completeOut -/

@[simp] theorem State.completeOut_build (x : Word64) : (s.completeOut x).build = s.build := rfl
@[simp] theorem State.completeOut_ie (x : Word64) : (s.completeOut x).ie = s.ie := rfl
@[simp] theorem State.completeOut_done (x : Word64) : (s.completeOut x).done = true := rfl
@[simp] theorem State.completeOut_err (x : Word64) : (s.completeOut x).err = false := rfl
@[simp] theorem State.completeOut_werr (x : Word64) : (s.completeOut x).werr = s.werr := rfl
@[simp] theorem State.completeOut_errcode (x : Word64) : (s.completeOut x).errcode = 0 := rfl
@[simp] theorem State.completeOut_cmd (x : Word64) : (s.completeOut x).cmd = s.cmd := rfl
@[simp] theorem State.completeOut_keys (x : Word64) : (s.completeOut x).keys = s.keys := rfl
@[simp] theorem State.completeOut_nonce (x : Word64) : (s.completeOut x).nonce = s.nonce := rfl
@[simp] theorem State.completeOut_edgeBits (x : Word64) : (s.completeOut x).edgeBits = s.edgeBits := rfl
@[simp] theorem State.completeOut_hlen (x : Word64) : (s.completeOut x).hlen = s.hlen := rfl
@[simp] theorem State.completeOut_hnonce (x : Word64) : (s.completeOut x).hnonce = s.hnonce := rfl
@[simp] theorem State.completeOut_out (x : Word64) : (s.completeOut x).out = x := rfl
@[simp] theorem State.completeOut_digest (x : Word64) : (s.completeOut x).digest = s.digest := rfl
@[simp] theorem State.completeOut_hbuf (x : Word64) : (s.completeOut x).hbuf = s.hbuf := rfl
@[simp] theorem State.completeOut_phase (x : Word64) : (s.completeOut x).phase = .idle := rfl
@[simp] theorem State.completeOut_events (x : Word64) : (s.completeOut x).events = s.events := rfl
@[simp] theorem State.completeOut_response (x : Word64) : (s.completeOut x).response = s.response := rfl
@[simp] theorem State.completeOut_hostFault (x : Word64) : (s.completeOut x).hostFault = s.hostFault := rfl
@[simp] theorem State.completeOut_draws (x : Word64) : (s.completeOut x).draws = s.draws := rfl

/-! ### completeSeed -/

@[simp] theorem State.completeSeed_build (d : List Byte) : (s.completeSeed d).build = s.build := rfl
@[simp] theorem State.completeSeed_ie (d : List Byte) : (s.completeSeed d).ie = s.ie := rfl
@[simp] theorem State.completeSeed_done (d : List Byte) : (s.completeSeed d).done = true := rfl
@[simp] theorem State.completeSeed_err (d : List Byte) : (s.completeSeed d).err = false := rfl
@[simp] theorem State.completeSeed_werr (d : List Byte) : (s.completeSeed d).werr = s.werr := rfl
@[simp] theorem State.completeSeed_errcode (d : List Byte) : (s.completeSeed d).errcode = 0 := rfl
@[simp] theorem State.completeSeed_cmd (d : List Byte) : (s.completeSeed d).cmd = s.cmd := rfl
@[simp] theorem State.completeSeed_keys (d : List Byte) : (s.completeSeed d).keys = seedKeys d := rfl
@[simp] theorem State.completeSeed_nonce (d : List Byte) : (s.completeSeed d).nonce = s.nonce := rfl
@[simp] theorem State.completeSeed_edgeBits (d : List Byte) : (s.completeSeed d).edgeBits = s.edgeBits := rfl
@[simp] theorem State.completeSeed_hlen (d : List Byte) : (s.completeSeed d).hlen = s.hlen := rfl
@[simp] theorem State.completeSeed_hnonce (d : List Byte) : (s.completeSeed d).hnonce = s.hnonce := rfl
@[simp] theorem State.completeSeed_out (d : List Byte) : (s.completeSeed d).out = s.out := rfl
@[simp] theorem State.completeSeed_digest (d : List Byte) : (s.completeSeed d).digest = seedDigestRegs d := rfl
@[simp] theorem State.completeSeed_hbuf (d : List Byte) : (s.completeSeed d).hbuf = s.hbuf := rfl
@[simp] theorem State.completeSeed_phase (d : List Byte) : (s.completeSeed d).phase = .idle := rfl
@[simp] theorem State.completeSeed_events (d : List Byte) : (s.completeSeed d).events = s.events := rfl
@[simp] theorem State.completeSeed_response (d : List Byte) : (s.completeSeed d).response = s.response := rfl
@[simp] theorem State.completeSeed_hostFault (d : List Byte) : (s.completeSeed d).hostFault = s.hostFault := rfl
@[simp] theorem State.completeSeed_draws (d : List Byte) : (s.completeSeed d).draws = s.draws := rfl

/-! ### noteInput -/

@[simp] theorem State.noteInput_build (l : List (Option Byte)) : (s.noteInput l).build = s.build := rfl
@[simp] theorem State.noteInput_ie (l : List (Option Byte)) : (s.noteInput l).ie = s.ie := rfl
@[simp] theorem State.noteInput_done (l : List (Option Byte)) : (s.noteInput l).done = s.done := rfl
@[simp] theorem State.noteInput_err (l : List (Option Byte)) : (s.noteInput l).err = s.err := rfl
@[simp] theorem State.noteInput_werr (l : List (Option Byte)) : (s.noteInput l).werr = s.werr := rfl
@[simp] theorem State.noteInput_errcode (l : List (Option Byte)) : (s.noteInput l).errcode = s.errcode := rfl
@[simp] theorem State.noteInput_cmd (l : List (Option Byte)) : (s.noteInput l).cmd = s.cmd := rfl
@[simp] theorem State.noteInput_keys (l : List (Option Byte)) : (s.noteInput l).keys = s.keys := rfl
@[simp] theorem State.noteInput_nonce (l : List (Option Byte)) : (s.noteInput l).nonce = s.nonce := rfl
@[simp] theorem State.noteInput_edgeBits (l : List (Option Byte)) : (s.noteInput l).edgeBits = s.edgeBits := rfl
@[simp] theorem State.noteInput_hlen (l : List (Option Byte)) : (s.noteInput l).hlen = s.hlen := rfl
@[simp] theorem State.noteInput_hnonce (l : List (Option Byte)) : (s.noteInput l).hnonce = s.hnonce := rfl
@[simp] theorem State.noteInput_out (l : List (Option Byte)) : (s.noteInput l).out = s.out := rfl
@[simp] theorem State.noteInput_digest (l : List (Option Byte)) : (s.noteInput l).digest = s.digest := rfl
@[simp] theorem State.noteInput_hbuf (l : List (Option Byte)) : (s.noteInput l).hbuf = s.hbuf := rfl
@[simp] theorem State.noteInput_phase (l : List (Option Byte)) : (s.noteInput l).phase = s.phase := rfl
@[simp] theorem State.noteInput_events (l : List (Option Byte)) : (s.noteInput l).events = s.events := rfl
@[simp] theorem State.noteInput_response (l : List (Option Byte)) : (s.noteInput l).response = s.response := rfl
@[simp] theorem State.noteInput_hostFault (l : List (Option Byte)) :
    (s.noteInput l).hostFault = if l.all Option.isSome then s.hostFault else some .unwrittenHeader := rfl
@[simp] theorem State.noteInput_draws (l : List (Option Byte)) : (s.noteInput l).draws = drawsAfter s.draws l := rfl

/-! ### writeStatus -/

@[simp] theorem State.writeStatus_build (v : Word32) : (s.writeStatus v).build = s.build := rfl
@[simp] theorem State.writeStatus_ie (v : Word32) : (s.writeStatus v).ie = s.ie := rfl
@[simp] theorem State.writeStatus_done (v : Word32) : (s.writeStatus v).done = (s.done && !v.getLsbD 1) := rfl
@[simp] theorem State.writeStatus_err (v : Word32) : (s.writeStatus v).err = (s.err && !v.getLsbD 2) := rfl
@[simp] theorem State.writeStatus_werr (v : Word32) : (s.writeStatus v).werr = (s.werr && !v.getLsbD 3) := rfl
@[simp] theorem State.writeStatus_errcode (v : Word32) : (s.writeStatus v).errcode = s.errcode := rfl
@[simp] theorem State.writeStatus_cmd (v : Word32) : (s.writeStatus v).cmd = s.cmd := rfl
@[simp] theorem State.writeStatus_keys (v : Word32) : (s.writeStatus v).keys = s.keys := rfl
@[simp] theorem State.writeStatus_nonce (v : Word32) : (s.writeStatus v).nonce = s.nonce := rfl
@[simp] theorem State.writeStatus_edgeBits (v : Word32) : (s.writeStatus v).edgeBits = s.edgeBits := rfl
@[simp] theorem State.writeStatus_hlen (v : Word32) : (s.writeStatus v).hlen = s.hlen := rfl
@[simp] theorem State.writeStatus_hnonce (v : Word32) : (s.writeStatus v).hnonce = s.hnonce := rfl
@[simp] theorem State.writeStatus_out (v : Word32) : (s.writeStatus v).out = s.out := rfl
@[simp] theorem State.writeStatus_digest (v : Word32) : (s.writeStatus v).digest = s.digest := rfl
@[simp] theorem State.writeStatus_hbuf (v : Word32) : (s.writeStatus v).hbuf = s.hbuf := rfl
@[simp] theorem State.writeStatus_phase (v : Word32) : (s.writeStatus v).phase = s.phase := rfl
@[simp] theorem State.writeStatus_events (v : Word32) : (s.writeStatus v).events = s.events := rfl
@[simp] theorem State.writeStatus_response (v : Word32) : (s.writeStatus v).response = s.response := rfl
@[simp] theorem State.writeStatus_hostFault (v : Word32) : (s.writeStatus v).hostFault = s.hostFault := rfl
@[simp] theorem State.writeStatus_draws (v : Word32) : (s.writeStatus v).draws = s.draws := rfl

/-! ### respondOkay -/

@[simp] theorem State.respondOkay_build (x : Word32) : (s.respondOkay x).build = s.build := rfl
@[simp] theorem State.respondOkay_ie (x : Word32) : (s.respondOkay x).ie = s.ie := rfl
@[simp] theorem State.respondOkay_done (x : Word32) : (s.respondOkay x).done = s.done := rfl
@[simp] theorem State.respondOkay_err (x : Word32) : (s.respondOkay x).err = s.err := rfl
@[simp] theorem State.respondOkay_werr (x : Word32) : (s.respondOkay x).werr = s.werr := rfl
@[simp] theorem State.respondOkay_errcode (x : Word32) : (s.respondOkay x).errcode = s.errcode := rfl
@[simp] theorem State.respondOkay_cmd (x : Word32) : (s.respondOkay x).cmd = s.cmd := rfl
@[simp] theorem State.respondOkay_keys (x : Word32) : (s.respondOkay x).keys = s.keys := rfl
@[simp] theorem State.respondOkay_nonce (x : Word32) : (s.respondOkay x).nonce = s.nonce := rfl
@[simp] theorem State.respondOkay_edgeBits (x : Word32) : (s.respondOkay x).edgeBits = s.edgeBits := rfl
@[simp] theorem State.respondOkay_hlen (x : Word32) : (s.respondOkay x).hlen = s.hlen := rfl
@[simp] theorem State.respondOkay_hnonce (x : Word32) : (s.respondOkay x).hnonce = s.hnonce := rfl
@[simp] theorem State.respondOkay_out (x : Word32) : (s.respondOkay x).out = s.out := rfl
@[simp] theorem State.respondOkay_digest (x : Word32) : (s.respondOkay x).digest = s.digest := rfl
@[simp] theorem State.respondOkay_hbuf (x : Word32) : (s.respondOkay x).hbuf = s.hbuf := rfl
@[simp] theorem State.respondOkay_phase (x : Word32) : (s.respondOkay x).phase = s.phase := rfl
@[simp] theorem State.respondOkay_events (x : Word32) : (s.respondOkay x).events = s.events := rfl
@[simp] theorem State.respondOkay_response (x : Word32) : (s.respondOkay x).response = some ⟨.okay, x⟩ := rfl
@[simp] theorem State.respondOkay_hostFault (x : Word32) : (s.respondOkay x).hostFault = s.hostFault := rfl
@[simp] theorem State.respondOkay_draws (x : Word32) : (s.respondOkay x).draws = s.draws := rfl

/-! ### respondError -/

@[simp] theorem State.respondError_build (z : AccessSize) (o : BitVec 13) :
    (s.respondError z o).build = s.build := rfl
@[simp] theorem State.respondError_ie (z : AccessSize) (o : BitVec 13) : (s.respondError z o).ie = s.ie := rfl
@[simp] theorem State.respondError_done (z : AccessSize) (o : BitVec 13) : (s.respondError z o).done = s.done := rfl
@[simp] theorem State.respondError_err (z : AccessSize) (o : BitVec 13) : (s.respondError z o).err = s.err := rfl
@[simp] theorem State.respondError_werr (z : AccessSize) (o : BitVec 13) : (s.respondError z o).werr = s.werr := rfl
@[simp] theorem State.respondError_errcode (z : AccessSize) (o : BitVec 13) :
    (s.respondError z o).errcode = s.errcode := rfl
@[simp] theorem State.respondError_cmd (z : AccessSize) (o : BitVec 13) : (s.respondError z o).cmd = s.cmd := rfl
@[simp] theorem State.respondError_keys (z : AccessSize) (o : BitVec 13) : (s.respondError z o).keys = s.keys := rfl
@[simp] theorem State.respondError_nonce (z : AccessSize) (o : BitVec 13) :
    (s.respondError z o).nonce = s.nonce := rfl
@[simp] theorem State.respondError_edgeBits (z : AccessSize) (o : BitVec 13) :
    (s.respondError z o).edgeBits = s.edgeBits := rfl
@[simp] theorem State.respondError_hlen (z : AccessSize) (o : BitVec 13) : (s.respondError z o).hlen = s.hlen := rfl
@[simp] theorem State.respondError_hnonce (z : AccessSize) (o : BitVec 13) :
    (s.respondError z o).hnonce = s.hnonce := rfl
@[simp] theorem State.respondError_out (z : AccessSize) (o : BitVec 13) : (s.respondError z o).out = s.out := rfl
@[simp] theorem State.respondError_digest (z : AccessSize) (o : BitVec 13) :
    (s.respondError z o).digest = s.digest := rfl
@[simp] theorem State.respondError_hbuf (z : AccessSize) (o : BitVec 13) : (s.respondError z o).hbuf = s.hbuf := rfl
@[simp] theorem State.respondError_phase (z : AccessSize) (o : BitVec 13) :
    (s.respondError z o).phase = s.phase := rfl
@[simp] theorem State.respondError_events (z : AccessSize) (o : BitVec 13) :
    (s.respondError z o).events = s.events := rfl
@[simp] theorem State.respondError_response (z : AccessSize) (o : BitVec 13) :
    (s.respondError z o).response = some ⟨.error, 0⟩ := rfl
@[simp] theorem State.respondError_hostFault (z : AccessSize) (o : BitVec 13) :
    (s.respondError z o).hostFault = some (.busError z o) := rfl
@[simp] theorem State.respondError_draws (z : AccessSize) (o : BitVec 13) :
    (s.respondError z o).draws = s.draws := rfl

/-! ### dropWrite -/

@[simp] theorem State.dropWrite_build (o : BitVec 13) : (s.dropWrite o).build = s.build := rfl
@[simp] theorem State.dropWrite_ie (o : BitVec 13) : (s.dropWrite o).ie = s.ie := rfl
@[simp] theorem State.dropWrite_done (o : BitVec 13) : (s.dropWrite o).done = s.done := rfl
@[simp] theorem State.dropWrite_err (o : BitVec 13) : (s.dropWrite o).err = s.err := rfl
@[simp] theorem State.dropWrite_werr (o : BitVec 13) : (s.dropWrite o).werr = true := rfl
@[simp] theorem State.dropWrite_errcode (o : BitVec 13) : (s.dropWrite o).errcode = s.errcode := rfl
@[simp] theorem State.dropWrite_cmd (o : BitVec 13) : (s.dropWrite o).cmd = s.cmd := rfl
@[simp] theorem State.dropWrite_keys (o : BitVec 13) : (s.dropWrite o).keys = s.keys := rfl
@[simp] theorem State.dropWrite_nonce (o : BitVec 13) : (s.dropWrite o).nonce = s.nonce := rfl
@[simp] theorem State.dropWrite_edgeBits (o : BitVec 13) : (s.dropWrite o).edgeBits = s.edgeBits := rfl
@[simp] theorem State.dropWrite_hlen (o : BitVec 13) : (s.dropWrite o).hlen = s.hlen := rfl
@[simp] theorem State.dropWrite_hnonce (o : BitVec 13) : (s.dropWrite o).hnonce = s.hnonce := rfl
@[simp] theorem State.dropWrite_out (o : BitVec 13) : (s.dropWrite o).out = s.out := rfl
@[simp] theorem State.dropWrite_digest (o : BitVec 13) : (s.dropWrite o).digest = s.digest := rfl
@[simp] theorem State.dropWrite_hbuf (o : BitVec 13) : (s.dropWrite o).hbuf = s.hbuf := rfl
@[simp] theorem State.dropWrite_phase (o : BitVec 13) : (s.dropWrite o).phase = s.phase := rfl
@[simp] theorem State.dropWrite_events (o : BitVec 13) : (s.dropWrite o).events = s.events := rfl
@[simp] theorem State.dropWrite_response (o : BitVec 13) : (s.dropWrite o).response = some ⟨.okay, 0⟩ := rfl
@[simp] theorem State.dropWrite_hostFault (o : BitVec 13) : (s.dropWrite o).hostFault = some (.droppedWrite o) := rfl
@[simp] theorem State.dropWrite_draws (o : BitVec 13) : (s.dropWrite o).draws = s.draws := rfl

/-! ### beginStep -/

@[simp] theorem State.beginStep_build (r : List Event) : (s.beginStep r).build = s.build := rfl
@[simp] theorem State.beginStep_ie (r : List Event) : (s.beginStep r).ie = s.ie := rfl
@[simp] theorem State.beginStep_done (r : List Event) : (s.beginStep r).done = s.done := rfl
@[simp] theorem State.beginStep_err (r : List Event) : (s.beginStep r).err = s.err := rfl
@[simp] theorem State.beginStep_werr (r : List Event) : (s.beginStep r).werr = s.werr := rfl
@[simp] theorem State.beginStep_errcode (r : List Event) : (s.beginStep r).errcode = s.errcode := rfl
@[simp] theorem State.beginStep_cmd (r : List Event) : (s.beginStep r).cmd = s.cmd := rfl
@[simp] theorem State.beginStep_keys (r : List Event) : (s.beginStep r).keys = s.keys := rfl
@[simp] theorem State.beginStep_nonce (r : List Event) : (s.beginStep r).nonce = s.nonce := rfl
@[simp] theorem State.beginStep_edgeBits (r : List Event) : (s.beginStep r).edgeBits = s.edgeBits := rfl
@[simp] theorem State.beginStep_hlen (r : List Event) : (s.beginStep r).hlen = s.hlen := rfl
@[simp] theorem State.beginStep_hnonce (r : List Event) : (s.beginStep r).hnonce = s.hnonce := rfl
@[simp] theorem State.beginStep_out (r : List Event) : (s.beginStep r).out = s.out := rfl
@[simp] theorem State.beginStep_digest (r : List Event) : (s.beginStep r).digest = s.digest := rfl
@[simp] theorem State.beginStep_hbuf (r : List Event) : (s.beginStep r).hbuf = s.hbuf := rfl
@[simp] theorem State.beginStep_phase (r : List Event) : (s.beginStep r).phase = s.phase := rfl
@[simp] theorem State.beginStep_events (r : List Event) : (s.beginStep r).events = r := rfl
@[simp] theorem State.beginStep_response (r : List Event) : (s.beginStep r).response = none := rfl
@[simp] theorem State.beginStep_hostFault (r : List Event) : (s.beginStep r).hostFault = none := rfl
@[simp] theorem State.beginStep_draws (r : List Event) : (s.beginStep r).draws = s.draws := rfl

/-! ### coreReset -/

@[simp] theorem State.coreReset_build : s.coreReset.build = s.build := rfl
@[simp] theorem State.coreReset_ie : s.coreReset.ie = false := rfl
@[simp] theorem State.coreReset_done : s.coreReset.done = false := rfl
@[simp] theorem State.coreReset_err : s.coreReset.err = false := rfl
@[simp] theorem State.coreReset_werr : s.coreReset.werr = false := rfl
@[simp] theorem State.coreReset_errcode : s.coreReset.errcode = 0 := rfl
@[simp] theorem State.coreReset_cmd : s.coreReset.cmd = 0 := rfl
@[simp] theorem State.coreReset_keys : s.coreReset.keys = ⟨0, 0, 0, 0⟩ := rfl
@[simp] theorem State.coreReset_nonce : s.coreReset.nonce = 0 := rfl
@[simp] theorem State.coreReset_edgeBits : s.coreReset.edgeBits = 0 := rfl
@[simp] theorem State.coreReset_hlen : s.coreReset.hlen = 0 := rfl
@[simp] theorem State.coreReset_hnonce : s.coreReset.hnonce = 0 := rfl
@[simp] theorem State.coreReset_out : s.coreReset.out = 0 := rfl
@[simp] theorem State.coreReset_digest : s.coreReset.digest = ⟨0, 0, 0, 0, 0, 0, 0, 0⟩ := rfl
@[simp] theorem State.coreReset_hbuf : s.coreReset.hbuf = [] := rfl
@[simp] theorem State.coreReset_phase : s.coreReset.phase = .idle := rfl
@[simp] theorem State.coreReset_events : s.coreReset.events = s.events := rfl
@[simp] theorem State.coreReset_response : s.coreReset.response = s.response := rfl
@[simp] theorem State.coreReset_hostFault : s.coreReset.hostFault = s.hostFault := rfl
@[simp] theorem State.coreReset_draws : s.coreReset.draws = s.draws := rfl

end

end Sys2Proof.Machine
end

