-- ==== Sys2Proof/Laws/Registers.lean ====
section
/-! SUPPORT. Register halves, and what a write to a location does, location by location (spec/10_state.md R22 to R37). -/

namespace Sys2Proof.Machine

@[simp] theorem getHalf_setHalf_same (v : Word64) (h : Half) (x : Word32) : getHalf (setHalf v h x) h = x := by
  cases h
  · apply BitVec.eq_of_getLsbD_eq
    intro i hi
    simp only [getHalf, setHalf, BitVec.getLsbD_extractLsb', BitVec.getLsbD_append]
    simp [hi]
  · apply BitVec.eq_of_getLsbD_eq
    intro i hi
    simp only [getHalf, setHalf, BitVec.getLsbD_extractLsb', BitVec.getLsbD_append]
    have h1 : ¬ 32 + i < 32 := by omega
    simp [hi, h1]

@[simp] theorem getHalf_hi_setHalf_lo (v : Word64) (x : Word32) : getHalf (setHalf v .lo x) .hi = getHalf v .hi := by
  apply BitVec.eq_of_getLsbD_eq
  intro i hi
  simp only [getHalf, setHalf, BitVec.getLsbD_extractLsb', BitVec.getLsbD_append]
  have h1 : ¬ 32 + i < 32 := by omega
  simp [hi, h1]

@[simp] theorem getHalf_lo_setHalf_hi (v : Word64) (x : Word32) : getHalf (setHalf v .hi x) .lo = getHalf v .lo := by
  apply BitVec.eq_of_getLsbD_eq
  intro i hi
  simp only [getHalf, setHalf, BitVec.getLsbD_extractLsb', BitVec.getLsbD_append]
  simp [hi]

@[simp] theorem Keys.get_set_same (k : Keys) (j : Fin 4) (v : Word64) : (k.set j v).get j = v := by
  fin_cases j <;> rfl

theorem Keys.get_set_other (k : Keys) {j l : Fin 4} (v : Word64) (h : l ≠ j) : (k.set j v).get l = k.get l := by
  fin_cases j <;> fin_cases l <;> first | rfl | exact absurd rfl h

/-- A write to a location of the map that is not CTRL changes only that location's register (20_memory.md R69): every
outcome of `writeLoc`, once. -/
theorem State.writeLoc_cases (l : Loc) (v : Word32) (s : State) :
    (l = .ctrl ∧ s.writeLoc l v = if v.getLsbD 1 then s.coreReset else { s with ie := v.getLsbD 0 }) ∨
    (l = .status ∧ s.writeLoc l v = s.writeStatus v) ∨
    (∃ j h, l = .key j h ∧ s.writeLoc l v = { s with keys := s.keys.set j (setHalf (s.keys.get j) h v) }) ∨
    (∃ h, l = .nonce h ∧ s.writeLoc l v = { s with nonce := setHalf s.nonce h v }) ∨
    (l = .edgeBits ∧ s.writeLoc l v = { s with edgeBits := v.extractLsb' 0 6 }) ∨
    (l = .hlen ∧ s.writeLoc l v = { s with hlen := v.extractLsb' 0 16 }) ∨
    (l = .hnonce ∧ s.writeLoc l v = { s with hnonce := v }) ∨
    (∃ j, l = .hbuf j ∧ s.writeLoc l v = { s with hbuf := s.hbuf.writeWord j v }) ∨
    (l = .cmd ∧ s.writeLoc l v = s) ∨
    (l.readOnly = true ∧ s.writeLoc l v = s) := by
  cases l <;> simp [State.writeLoc, Loc.readOnly, State.writeCtrl]

/-- What the map gives at an offset below HBUF is a row of the table. -/
theorem locate_register {b : Build} {off : BitVec 13} {l : Loc} (h : locate b off = some l)
    (hb : off.toNat < hbufBase) : registerMap.lookup off.toNat = some l := by
  unfold locate at h
  split at h
  · simp at h
  · exact h

/-- An HBUF word of the map lies inside the buffer, and only the offsets from 0x1000 up are HBUF words (10_state.md R22). -/
theorem locate_hbuf {b : Build} {off : BitVec 13} {j : Nat} (h : locate b off = some (.hbuf j)) :
    4 * j + 4 ≤ b.hbufSize ∧ off.toNat = hbufBase + 4 * j := by
  unfold locate at h
  split at h
  · simp at h
  split at h
  · exfalso
    simp only [registerMap, List.lookup] at h
    repeat' split at h
    all_goals simp at h
  · split at h
    · simp only [Option.some.injEq, Loc.hbuf.injEq] at h
      subst h
      have : b.hbufSize % 4 = 0 := by simp [Build.hbufSize]
      simp only [hbufBase] at *
      omega
    · simp at h

end Sys2Proof.Machine
end

