-- ==== Sys2Proof/Laws/Bus.lean ====
section
/-! SUPPORT. What one step can do, said once for each shared operation: the cases of a step, of the engine's turn, of a host
access, of an accepted command and of each half of a command. -/

namespace Sys2Proof.Machine

theorem Phase.isBusy_eq_true {p : Phase} (h : p.isBusy = true) : ∃ snap, p = .busy snap := by
  cases p with
  | idle => simp [Phase.isBusy] at h
  | busy snap => exact ⟨snap, rfl⟩

@[simp] theorem Phase.isBusy_idle : Phase.idle.isBusy = false := rfl

@[simp] theorem Phase.isBusy_busy (snap : Snapshot) : (Phase.busy snap).isBusy = true := rfl

/-! ### The two halves of each command -/

/-- The acceptance half of every command, in phase IDLE (40_commands.md R111): completed at once (NOP), rejected, or
started. -/
theorem exec_idle (i : Instr) (s : State) (h : s.phase = .idle) :
    exec i s = .next
      (match i with
      | .nop => (s.accept (encode .nop)).complete
      | .siphash rot =>
        if rotLegal rot then (s.accept (encode i)).start (encode i) else (s.accept (encode i)).raiseError .badRot
      | .sipblock rot _ =>
        if rotLegal rot then (s.accept (encode i)).start (encode i) else (s.accept (encode i)).raiseError .badRot
      | .sipnode _ _ => (s.accept (encode i)).start (encode i)
      | .seed ne =>
        if hlenLegal s.build s.hlen ne then (s.accept (encode i)).start (encode i)
        else (s.accept (encode i)).raiseError .badHlen) := by
  cases i <;> simp only [exec, execNop, execSiphash, execSipblock, execSipnode, execSeed, h] <;> split <;> rfl

/-- The completion half of every command, in phase BUSY (40_commands.md R115). -/
theorem exec_busy (i : Instr) (s : State) {snap : Snapshot} (h : s.phase = .busy snap) :
    exec i s = .next
      (match i with
      | .nop => s.complete
      | .siphash rot => s.completeOut (keyedHash snap.keys snap.nonce rot.toNat)
      | .sipblock rot xa => s.completeOut (blockHash snap.keys snap.nonce rot.toNat xa)
      | .sipnode uorv sh => s.completeOut (sipNode snap.keys snap.nonce (bit64 uorv) sh (edgeMask snap.edgeBits))
      | .seed ne =>
        (s.noteInput (seedInput snap ne)).completeSeed
          (digest256 s.build.digestAlg (fillFree s.draws (seedInput snap ne)))) := by
  cases i <;> simp only [exec, execNop, execSiphash, execSipblock, execSipnode, execSeed, h]

/-- No command stops in either phase. -/
theorem exec_next (i : Instr) (s : State) : ∃ t, exec i s = .next t := by
  cases h : s.phase with
  | idle => exact ⟨_, exec_idle i s h⟩
  | busy snap => exact ⟨_, exec_busy i s h⟩

/-! ### Accesses and turns -/

/-- The acceptance of a word: an illegal word completes with ILLEGAL_CMD, a legal one runs its command
(40_commands.md R111). -/
theorem acceptCommand_cases (w : Word32) (s : State) :
    (∃ e, decode w = .error e ∧ acceptCommand w s = .next ((s.accept w).raiseError .illegalCmd)) ∨
    (∃ i, decode w = .ok i ∧ acceptCommand w s = exec i s) := by
  unfold acceptCommand
  cases h : decode w with
  | error e => exact .inl ⟨e, rfl, rfl⟩
  | ok i => exact .inr ⟨i, rfl, rfl⟩

/-- A write to a location: dropped, a command, or performed (20_memory.md R71). -/
theorem hostWrite_cases (off : BitVec 13) (l : Loc) (v : Word32) (s : State) :
    (s.phase.isBusy = true ∧ l.busyLocked = true ∧ hostWrite off l v s = .next (s.dropWrite off)) ∨
    (s.phase = .idle ∧ l = .cmd ∧ hostWrite off l v s = acceptCommand v (s.respondOkay 0)) ∨
    (l ≠ .cmd ∧ (s.phase = .idle ∨ l.busyLocked = false) ∧
      hostWrite off l v s = .next ((s.respondOkay 0).writeLoc l v)) := by
  unfold hostWrite
  cases hp : s.phase with
  | idle =>
    by_cases hl : l = .cmd
    · simp [hl]
    · simp [hl]
  | busy snap =>
    by_cases hb : l.busyLocked = true
    · simp [hb]
    · by_cases hl : l = .cmd
      · subst hl; simp [Loc.busyLocked] at hb
      · simp [hb, hl]

/-- A host access: a bus error, a read or a write at a location of the map (20_memory.md R64). -/
theorem hostAccess_cases (a : Access) (s : State) :
    ((a.size ≠ .word ∨ locate s.build a.offset = none) ∧
      hostAccess a s = .next (s.respondError a.size a.offset)) ∨
    (∃ off l, a = .read .word off ∧ locate s.build off = some l ∧ hostAccess a s = .next (hostRead l s)) ∨
    (∃ off v l, a = .write .word off v ∧ locate s.build off = some l ∧ hostAccess a s = hostWrite off l v s) := by
  unfold hostAccess
  by_cases hs : a.size = .word
  · rw [if_pos hs]
    cases hl : locate s.build a.offset with
    | none => exact .inl ⟨.inr rfl, rfl⟩
    | some l =>
      cases a with
      | read size off =>
        simp only [Access.size] at hs; subst hs
        exact .inr (.inl ⟨off, l, rfl, hl, rfl⟩)
      | write size off v =>
        simp only [Access.size] at hs; subst hs
        exact .inr (.inr ⟨off, v, l, rfl, hl, rfl⟩)
  · rw [if_neg hs]
    exact .inl ⟨.inl hs, rfl⟩

/-- The engine's turn: nothing while IDLE, else the completion of the command in flight (40_commands.md R115). -/
theorem engineTurn_cases (s : State) :
    (s.phase = .idle ∧ engineTurn s = .next s) ∨
    (∃ snap i, s.phase = .busy snap ∧ decode snap.w = .ok i ∧ engineTurn s = exec i s) ∨
    (∃ snap e, s.phase = .busy snap ∧ decode snap.w = .error e ∧ engineTurn s = .fault (.snapshotIllegal snap.w)) := by
  unfold engineTurn
  cases hp : s.phase with
  | idle => exact .inl ⟨rfl, rfl⟩
  | busy snap =>
    cases hd : decode snap.w with
    | ok i => exact .inr (.inl ⟨snap, i, rfl, hd, by simp only [hd]⟩)
    | error e => exact .inr (.inr ⟨snap, e, rfl, hd, by simp only [hd]⟩)

/-- One step, by the input it takes: the engine's turn (also when no input is left), a reset, or a host access. -/
theorem step_cases (s : State) :
    (∃ rest, (s.events = .engine :: rest ∨ s.events = [] ∧ rest = []) ∧ step s = engineTurn (s.beginStep rest)) ∨
    (∃ rest, s.events = .rstN :: rest ∧ step s = .next (s.beginStep rest).coreReset) ∨
    (∃ a rest, s.events = .host a :: rest ∧ step s = hostAccess a (s.beginStep rest)) := by
  unfold step runEvent
  cases he : s.events with
  | nil => exact .inl ⟨[], .inr ⟨rfl, rfl⟩, rfl⟩
  | cons e rest =>
    cases e with
    | engine => exact .inl ⟨rest, .inl rfl, rfl⟩
    | rstN => exact .inr (.inl ⟨rest, rfl, rfl⟩)
    | host a => exact .inr (.inr ⟨a, rest, rfl, rfl⟩)

/-- The engine's turn, when the input says so or no input is left. -/
theorem step_engine {s : State} {rest : List Event} (h : s.events = .engine :: rest ∨ s.events = [] ∧ rest = []) :
    step s = engineTurn (s.beginStep rest) := by
  rcases h with h | ⟨h, rfl⟩ <;> simp [step, runEvent, h]

/-- A host access, when it is the next input. -/
theorem step_host {s : State} {a : Access} {rest : List Event} (h : s.events = .host a :: rest) :
    step s = hostAccess a (s.beginStep rest) := by
  simp [step, runEvent, h]

/-- A 32-bit read at a location of the map, when it is the next input (20_memory.md R65). -/
theorem step_read {s : State} {off : BitVec 13} {l : Loc} {rest : List Event}
    (h : s.events = .host (.read .word off) :: rest) (hl : locate s.build off = some l) :
    step s = .next (hostRead l (s.beginStep rest)) := by
  rw [step_host h]
  simp [hostAccess, Access.size, Access.offset, hl]

/-- A 32-bit write at a location of the map, when it is the next input (20_memory.md R71). -/
theorem step_write {s : State} {off : BitVec 13} {l : Loc} {v : Word32} {rest : List Event}
    (h : s.events = .host (.write .word off v) :: rest) (hl : locate s.build off = some l) :
    step s = hostWrite off l v (s.beginStep rest) := by
  rw [step_host h]
  simp [hostAccess, Access.size, Access.offset, hl]

/-- A reset, when it is the next input. -/
theorem step_rstN {s : State} {rest : List Event} (h : s.events = .rstN :: rest) :
    step s = .next (s.beginStep rest).coreReset := by
  simp [step, runEvent, h]

end Sys2Proof.Machine
end

