-- ==== Sys2Proof/Laws/Decode.lean ====
section
/-! SUPPORT. The fields of an assembled word, and decoding as a case split over the five rows (spec/30_encoding.md R93,
R94). -/

namespace Sys2Proof

section
variable (op : BitVec 4) (rot : BitVec 8) (xa uorv sh ne : Bool)

@[simp] theorem fieldOp_assembleFields : fieldOp (assembleFields op rot xa uorv sh ne) = op := by
  apply BitVec.eq_of_getLsbD_eq
  intro i hi
  simp only [fieldOp, assembleFields, BitVec.getLsbD_extractLsb', BitVec.getLsbD_append]
  simp [hi]

@[simp] theorem fieldRot_assembleFields : fieldRot (assembleFields op rot xa uorv sh ne) = rot := by
  apply BitVec.eq_of_getLsbD_eq
  intro i hi
  simp only [fieldRot, assembleFields, BitVec.getLsbD_extractLsb', BitVec.getLsbD_append]
  have h1 : ¬ 8 + i < 4 := by omega
  have h2 : ¬ 8 + i - 4 < 1 := by omega
  have h3 : ¬ 8 + i - 4 - 1 < 1 := by omega
  have h4 : ¬ 8 + i - 4 - 1 - 1 < 1 := by omega
  have h5 : ¬ 8 + i - 4 - 1 - 1 - 1 < 1 := by omega
  have h6 : 8 + i - 4 - 1 - 1 - 1 - 1 = i := by omega
  simp [h1, h2, h3, h4, h5, h6, hi]

@[simp] theorem fieldRsv_assembleFields : fieldRsv (assembleFields op rot xa uorv sh ne) = 0 := by
  apply BitVec.eq_of_getLsbD_eq
  intro i hi
  simp only [fieldRsv, assembleFields, BitVec.getLsbD_extractLsb', BitVec.getLsbD_append]
  have h1 : ¬ 16 + i < 4 := by omega
  have h2 : ¬ 16 + i - 4 < 1 := by omega
  have h3 : ¬ 16 + i - 4 - 1 < 1 := by omega
  have h4 : ¬ 16 + i - 4 - 1 - 1 < 1 := by omega
  have h5 : ¬ 16 + i - 4 - 1 - 1 - 1 < 1 := by omega
  have h6 : ¬ 16 + i - 4 - 1 - 1 - 1 - 1 < 8 := by omega
  simp [h1, h2, h3, h4, h5, h6]

@[simp] theorem fieldXa_assembleFields : fieldXa (assembleFields op rot xa uorv sh ne) = xa := by
  simp only [fieldXa, assembleFields, BitVec.getLsbD_append]
  simp

@[simp] theorem fieldUorv_assembleFields : fieldUorv (assembleFields op rot xa uorv sh ne) = uorv := by
  simp only [fieldUorv, assembleFields, BitVec.getLsbD_append]
  simp

@[simp] theorem fieldSh_assembleFields : fieldSh (assembleFields op rot xa uorv sh ne) = sh := by
  simp only [fieldSh, assembleFields, BitVec.getLsbD_append]
  simp

@[simp] theorem fieldNe_assembleFields : fieldNe (assembleFields op rot xa uorv sh ne) = ne := by
  simp only [fieldNe, assembleFields, BitVec.getLsbD_append]
  simp

/-- A word is what its fields assemble to, when RSV is 0 (30_encoding.md R91). -/
theorem assembleFields_of_fields (w : Word32) (h : fieldRsv w = 0) :
    assembleFields (fieldOp w) (fieldRot w) (fieldXa w) (fieldUorv w) (fieldSh w) (fieldNe w) = w := by
  apply BitVec.eq_of_getLsbD_eq
  intro i hi
  have hr : 16 ≤ i → w.getLsbD i = false := fun h16 => by
    have := congrArg (fun v : BitVec 16 => v.getLsbD (i - 16)) h
    simp only [fieldRsv, BitVec.getLsbD_extractLsb'] at this
    have h1 : i - 16 < 16 := by omega
    have h2 : 16 + (i - 16) = i := by omega
    simpa [h1, h2] using this
  simp only [assembleFields, fieldOp, fieldRot, fieldXa, fieldUorv, fieldSh, fieldNe, BitVec.getLsbD_append,
    BitVec.getLsbD_extractLsb', BitVec.getLsbD_ofBool]
  rcases Nat.lt_or_ge i 16 with h16 | h16
  · interval_cases i <;> simp
  · rw [hr h16]
    have h1 : ¬ i < 4 := by omega
    have h2 : ¬ i - 4 < 1 := by omega
    have h3 : ¬ i - 4 - 1 < 1 := by omega
    have h4 : ¬ i - 4 - 1 - 1 < 1 := by omega
    have h5 : ¬ i - 4 - 1 - 1 - 1 < 1 := by omega
    have h6 : ¬ i - 4 - 1 - 1 - 1 - 1 < 8 := by omega
    simp [h1, h2, h3, h4, h5, h6]

end

/-- Decoding as a chain of the five row tests (30_encoding.md R94). -/
theorem decode_eq (w : Word32) :
    decode w =
      if w &&& 0xFFFFFFFF = 0x00000000 then .ok .nop
      else if w &&& 0xFFFF00FF = 0x00000001 then .ok (.siphash (fieldRot w))
      else if w &&& 0xFFFF00EF = 0x00000002 then .ok (.sipblock (fieldRot w) (fieldXa w))
      else if w &&& 0xFFFFFF9F = 0x00000003 then .ok (.sipnode (fieldUorv w) (fieldSh w))
      else if w &&& 0xFFFFFF7F = 0x00000004 then .ok (.seed (fieldNe w))
      else .error (illegalReason w) := by
  unfold decode opcodeRows
  by_cases h0 : w &&& 4294967295#32 = 0#32
  · simp [List.find?, h0]
  have b0 := beq_eq_false_iff_ne.2 h0
  by_cases h1 : w &&& 4294902015#32 = 1#32
  · simp [List.find?, h0, b0, h1]
  have b1 := beq_eq_false_iff_ne.2 h1
  by_cases h2 : w &&& 4294901999#32 = 2#32
  · simp [List.find?, h0, b0, h1, b1, h2]
  have b2 := beq_eq_false_iff_ne.2 h2
  by_cases h3 : w &&& 4294967199#32 = 3#32
  · simp [List.find?, h0, b0, h1, b1, h2, b2, h3]
  have b3 := beq_eq_false_iff_ne.2 h3
  by_cases h4 : w &&& 4294967167#32 = 4#32
  · simp [List.find?, h0, b0, h1, b1, h2, b2, h3, b3, h4]
  have b4 := beq_eq_false_iff_ne.2 h4
  simp [List.find?, h0, b0, h1, b1, h2, b2, h3, b3, h4, b4]

end Sys2Proof
end

