-- ==== Sys2Proof/Laws/HostProgram.lean ====
section
/-! SUPPORT. What the expansion of a source line can be (spec/30_encoding.md R105). -/

namespace Sys2Proof.Machine

/-- A line that assembles expands as the table writes it, and accesses locations of the map alone (log entry 20). -/
theorem expandLine_eq_some {n : Nat} {l : HostSource} {lines : List HostLine} (h : expandLine n l = some lines) :
    rawExpansion n l = some lines ∧ ∀ x ∈ lines, x.inMap = true := by
  simpa [expandLine, Option.filter_eq_some_iff] using h

/-- A register has an offset in the map, whatever the register; only HBUF words can lack one. -/
theorem Loc.inMap_of_ne_hbuf {l : Loc} (h : ∀ j, l ≠ .hbuf j) : l.inMap = true := by
  cases l <;> first | rfl | exact absurd rfl (h _)

end Sys2Proof.Machine
end

