-- ==== Sys2Proof/Laws/Operands.lean ====
section
/-! SUPPORT. The operands: which word is SEED's, the rotation and length checks, EDGE_MASK as a number, and reads of bytes
that hold a value (spec/30_encoding.md R95 to R97; 44_graphparams.md R200, R203). -/

namespace Sys2Proof.Machine

theorem rotLegal_iff (rot : BitVec 8) : rotLegal rot = true ↔ 1 ≤ rot.toNat ∧ rot.toNat ≤ 63 := by
  simp [rotLegal]

theorem hlenLegal_iff (b : Build) (hlen : BitVec 16) (ne : Bool) :
    hlenLegal b hlen ne = true ↔ hlen.toNat ≤ b.hbufSize ∧ (ne = true → 4 ≤ hlen.toNat) := by
  cases ne <;> simp [hlenLegal]

/-- Only the word of SEED takes header bytes into its snapshot. -/
theorem isSeedWord_encode (i : Instr) :
    isSeedWord (encode i) = (match i with | .seed _ => true | _ => false) := by
  cases i <;> simp [isSeedWord, encode]

/-- `EDGE_MASK = 2^EDGE_BITS − 1`. -/
theorem toNat_edgeMask (eb : BitVec 6) : (edgeMask eb).toNat = 2 ^ eb.toNat - 1 := by
  revert eb; decide +kernel

/-- Masking with EDGE_MASK keeps the low EDGE_BITS bits. -/
theorem toNat_and_edgeMask (x : Word64) (eb : BitVec 6) : (x &&& edgeMask eb).toNat = x.toNat % 2 ^ eb.toNat := by
  rw [BitVec.toNat_and, toNat_edgeMask, Nat.and_two_pow_sub_one_eq_mod]

theorem two_pow_edgeBits_le (eb : BitVec 6) : 2 ^ eb.toNat ≤ 2 ^ 63 :=
  Nat.pow_le_pow_right (by decide) (by have := eb.isLt; omega)

theorem toNat_bit64 (b : Bool) : (bit64 b).toNat = b.toNat := by cases b <;> rfl

theorem all_isSome_iff (l : List (Option Byte)) : l.all Option.isSome = true ↔ ∃ m : List Byte, l = m.map some := by
  induction l with
  | nil => exact ⟨fun _ => ⟨[], rfl⟩, fun _ => rfl⟩
  | cons b l ih =>
    constructor
    · intro h
      simp only [List.all_cons, Bool.and_eq_true] at h
      obtain ⟨m, hm⟩ := ih.1 h.2
      obtain ⟨v, rfl⟩ := Option.isSome_iff_exists.1 h.1
      exact ⟨v :: m, by simp [hm]⟩
    · rintro ⟨m, hm⟩
      rw [hm]; simp

/-- Bytes read with free values drawn for those that hold none agree with every byte that holds one. -/
theorem getElem?_fillFree (n : Nat) (l : List (Option Byte)) (k : Nat) (b : Byte) (h : l[k]? = some (some b)) :
    (fillFree n l)[k]? = some b := by
  induction l generalizing n k with
  | nil => simp at h
  | cons c l ih =>
    cases k with
    | zero =>
      have hc : c = some b := by simpa using h
      subst hc; simp [fillFree]
    | succ k =>
      have hk : l[k]? = some (some b) := by simpa using h
      cases c <;> simpa [fillFree] using ih (n + 1) k hk

end Sys2Proof.Machine
end

