-- ==== Sys2Proof/Laws/PerInstr.lean ====
section
/-! SUPPORT. A fact about every command as syntax: its word has RSV = 0 and one of the five opcodes
(spec/30_encoding.md R92, R93). -/

namespace Sys2Proof.Laws

/-- The word of `i` has RSV = 0 and OP at most 4. -/
def EncodedFields.Statement (i : Instr) : Prop := fieldRsv (encode i) = 0 ∧ (fieldOp (encode i)).toNat ≤ 4

theorem EncodedFields.nop : EncodedFields.Statement .nop := by simp [EncodedFields.Statement, encode]

theorem EncodedFields.siphash (rot : BitVec 8) : EncodedFields.Statement (.siphash rot) := by
  simp [EncodedFields.Statement, encode]

theorem EncodedFields.sipblock (rot : BitVec 8) (xa : Bool) : EncodedFields.Statement (.sipblock rot xa) := by
  simp [EncodedFields.Statement, encode]

theorem EncodedFields.sipnode (uorv sh : Bool) : EncodedFields.Statement (.sipnode uorv sh) := by
  simp [EncodedFields.Statement, encode]

theorem EncodedFields.seed (ne : Bool) : EncodedFields.Statement (.seed ne) := by
  simp [EncodedFields.Statement, encode]

end Sys2Proof.Laws
end

