-- ==== Sys2Proof/Tests/Slice0.lean ====
section
/-! SUPPORT. Tests of the model against words and values taken from spec/, and a witness for every statement that has
hypotheses: a concrete state and operands that meet all of them together. -/

namespace Sys2Proof.Tests

open Sys2Proof.Machine

/-! ### Well-formedness: the checks refuse what they should -/

theorem test_wellFormed_siphash_bounds :
    Instr.wellFormed (.siphash 0) = false ∧ Instr.wellFormed (.siphash 64) = false
    ∧ Instr.wellFormed (.siphash 255) = false ∧ Instr.wellFormed (.siphash 1) = true
    ∧ Instr.wellFormed (.siphash 63) = true := by decide

theorem test_wellFormed_sipblock_bounds :
    Instr.wellFormed (.sipblock 0 true) = false ∧ Instr.wellFormed (.sipblock 64 false) = false
    ∧ Instr.wellFormed (.sipblock 255 true) = false ∧ Instr.wellFormed (.sipblock 1 false) = true
    ∧ Instr.wellFormed (.sipblock 63 true) = true := by decide

/-! ### Decoding: words written bit by bit from 30_encoding.md R91 and R93 -/

theorem test_decode_nop : decode 0x00000000 = .ok .nop := by decide

/-- ROT = 0x15 in bits 15:8, OP = 1. -/
theorem test_decode_siphash : decode 0b00000000000000000001010100000001 = .ok (.siphash 21) := by decide

/-- ROT = 0x19 in bits 15:8, XA in bit 4, OP = 2. -/
theorem test_decode_sipblock : decode 0b00000000000000000001100100010010 = .ok (.sipblock 25 true) := by decide

/-- UORV in bit 5, OP = 3; SH in bit 6, OP = 3. -/
theorem test_decode_sipnode :
    decode 0b00000000000000000000000000100011 = .ok (.sipnode true false)
    ∧ decode 0b00000000000000000000000001000011 = .ok (.sipnode false true) := by decide

/-- NE in bit 7, OP = 4. -/
theorem test_decode_seed : decode 0b00000000000000000000000010000100 = .ok (.seed true) := by decide

/-- 30_encoding.md R98: each ground of illegality, and 95_test_vectors.md section 1.3. -/
theorem test_decode_illegal :
    decode 0x00000005 = .error .reservedOpcode ∧ decode 0x0000000F = .error .reservedOpcode
    ∧ decode 0x00010001 = .error .reservedBits ∧ decode 0x00000010 = .error .unusedField
    ∧ decode 0x00001511 = .error .unusedField ∧ decode 0x00001522 = .error .unusedField
    ∧ decode 0x00000013 = .error .unusedField ∧ decode 0x00000014 = .error .unusedField := by decide

theorem test_decodeTableWord :
    decodeTableWord 32 0x1512 = some (.sipblock 21 true) ∧ decodeTableWord 32 0x5 = none := by decide

/-- 30_encoding.md R105: `waitdone` reads STATUS into the temporary `s`; log entry 20: `HBUF+4096` is an assembly error. -/
theorem test_expandLine :
    expandLine 7 .waitdone = some [.label (.fresh 7), .rd .status (.named "s"), .ifGoto (.named "s") 2 0 (.fresh 7)]
    ∧ expandLine 0 (.base (.wr (.hbuf 1024) 0)) = none
    ∧ expandLine 0 (.base (.wr (.hbuf 1023) 0)) = some [.wr (.hbuf 1023) 0] := by decide

/-! ### States for the tests -/

/-- Keys 1..4, nonce 10, 19 edge bits, an 8-byte header 01..08 and the header nonce 20; IDLE, with the inputs `es`. -/
def demo (es : List Event) : State :=
  { State.reset with
    keys := ⟨1, 2, 3, 4⟩, nonce := 10, edgeBits := 19, hlen := 8, hnonce := 20,
    hbuf := [(0, 1), (1, 2), (2, 3), (3, 4), (4, 5), (5, 6), (6, 7), (7, 8)], events := es }

/-- `demo` with the command `i` in flight. -/
def demoBusy (i : Instr) (es : List Event) : State :=
  { demo es with cmd := encode i, phase := .busy ((demo es).takeSnapshot (encode i)) }

/-- The snapshot in `demoBusy i`. -/
def demoSnap (i : Instr) : Snapshot := (demo []).takeSnapshot (encode i)

/-- The host writes `v` at `off`. -/
def wr (off : BitVec 13) (v : Word32) : Event := .host (.write .word off v)

/-- The host reads at `off`. -/
def rd (off : BitVec 13) : Event := .host (.read .word off)

/-- What a field reads as after `n` steps, if they all answer a next state. -/
def after {α : Type} (n : Nat) (s : State) (f : State → α) : Option α :=
  match runSteps n s with
  | .next t => some (f t)
  | .fault _ => none
  | .refused _ => none

/-! ### One step of each command: values of 95_test_vectors.md -/

/-- 40_commands.md R117: DONE alone, CMD written, in one step. -/
theorem test_nop : after 1 (demo [wr 0x010 0]) (fun t => (t.statusWord, t.out)) = some (2, 0) := by decide +kernel

/-- Section 1.2, first row. -/
theorem test_siphash_result : after 1 (demoBusy (.siphash 21) []) State.out = some 0x0CE246A572AE2495 := by
  decide +kernel

/-- Section 1.3: BAD_ROT, STATUS 0x26, OUT unchanged. -/
theorem test_siphash_badRot :
    after 1 (demo [wr 0x010 0x4001]) (fun t => (t.statusWord, t.out)) = some (0x26, 0) := by decide +kernel

/-- Section 2.2, first row: XA = 0. -/
theorem test_sipblock_result : after 1 (demoBusy (.sipblock 21 false) []) State.out = some 0x1067E24C67C05D0C := by
  decide +kernel

/-- Section 2.1, first row: XA = 1. -/
theorem test_sipblock_xorAll : after 1 (demoBusy (.sipblock 21 true) []) State.out = some 0xC3431F4D5DF99FDE := by
  decide +kernel

/-- Section 3: EDGE_BITS 19, NONCE 10, UORV 1, SH 1. -/
theorem test_sipnode_result : after 1 (demoBusy (.sipnode true true) []) State.out = some 0x606FD := by decide +kernel

/-- Section 3: EDGE_BITS 19, NONCE 10, UORV 0, SH 0. -/
theorem test_sipnode_plain : after 1 (demoBusy (.sipnode false false) []) State.out = some 0x0D4D2 := by decide +kernel

/-- `demo` with a header of 80 zero bytes and a SEED with the nonce in flight, of the build with algorithm `alg`. -/
def zeroHeader (alg : DigestAlg) : State :=
  let s := { demo [] with
    build := ⟨alg, 127⟩, hlen := 80, hbuf := (List.range 80).map fun k => (k, 0), cmd := 0x84 }
  { s with phase := .busy (s.takeSnapshot 0x84) }

/-- Section 1.1: 80 zero bytes, HNONCE 20, SHA256. -/
theorem test_seed_sha256 :
    after 1 (zeroHeader .sha256) State.keys
      = some ⟨0xC7D055ED1018EA27, 0xDD4839E5F6B616F1, 0x2E462F070DF37B54, 0x57C4C3FAAC7CEBD2⟩ := by decide +kernel

/-- Section 1.1: the same, BLAKE2B_256. -/
theorem test_seed_blake2b :
    after 1 (zeroHeader .blake2b256) State.keys
      = some ⟨0x27580576FE290177, 0xF9EA9B2031F4E76E, 0x1663308C8607868F, 0xB88839B0FA180D0E⟩ := by decide +kernel

/-- The word placed by `withFetchWord` is accepted in the very next step. -/
theorem test_withFetchWord :
    after 1 (State.reset.withFetchWord 32 0x1501) (fun t => (t.cmd, t.phase.isBusy)) = some (0x1501, true) := by
  decide +kernel

/-- The memory of reset has its canonical form. -/
theorem test_reset_memory_wf : State.reset.hbuf.wf = true := by decide

/-! ### Witnesses: states with the invariant -/

theorem demo_inv : ∀ es, (demo es).Inv := fun es =>
  ⟨⟨by simp only [demo]; decide, by simp only [demo]; decide⟩,
    ⟨by simp [demo, State.reset, State.resetOf], by simp [demo, State.reset, State.resetOf]⟩, trivial⟩

theorem demoBusy_inv (i : Instr) (h : passesChecks Build.default 8 (encode i) = true) :
    ∀ es, (demoBusy i es).Inv := fun es =>
  ⟨⟨by simp only [demoBusy, demo]; decide, by simp only [demoBusy, demo]; decide⟩,
    ⟨by simp [demoBusy, demo, State.reset, State.resetOf], by simp [demoBusy, demo, State.reset, State.resetOf]⟩,
    ⟨rfl, h, rfl, rfl, rfl⟩⟩

theorem witness_EveryStepKeepsTheInvariant :
    (∃ t, (demo [wr 0x010 0x1501]).Inv ∧ step (demo [wr 0x010 0x1501]) = .next t)
    ∧ (∃ t, (demoBusy (.siphash 21) []).Inv ∧ step (demoBusy (.siphash 21) []) = .next t)
    ∧ (∃ t, (demo [wr 0x1FFC 1]).Inv ∧ step (demo [wr 0x1FFC 1]) = .next t) :=
  ⟨⟨_, demo_inv _, rfl⟩, ⟨_, demoBusy_inv _ (by decide) _, rfl⟩, ⟨_, demo_inv _, rfl⟩⟩

theorem witness_ResetLeavesTheStatedValues :
    (demoBusy (.siphash 21) [.rstN]).ResetNext ∧ (demoBusy (.siphash 21) [wr 0x008 2]).ResetNext :=
  ⟨⟨_, _, rfl, .inl rfl⟩, ⟨_, _, rfl, .inr ⟨2, rfl, by decide⟩⟩⟩

theorem witness_TheCoreNeverStops : (demo [.rstN]).Inv ∧ (demoBusy (.seed true) [rd 0x001]).Inv :=
  ⟨demo_inv _, demoBusy_inv _ (by decide) _⟩

/-- A read, a dropped command, a write to CTRL without SRST: none of them resets. -/
theorem witness_ABusyEngineCompletes :
    (demoBusy (.siphash 21) [rd 0x00C, wr 0x010 0, wr 0x008 1]).Inv
    ∧ (demoBusy (.siphash 21) [rd 0x00C, wr 0x010 0, wr 0x008 1]).phase = .busy (demoSnap (.siphash 21))
    ∧ ∀ e ∈ (demoBusy (.siphash 21) [rd 0x00C, wr 0x010 0, wr 0x008 1]).events, ¬ e.Resets := by
  refine ⟨demoBusy_inv _ (by decide) _, rfl, ?_⟩
  simp [demoBusy, demo, rd, wr, Event.Resets]

theorem witness_CapsReportsTheBuildForEver : ∃ t, step (demo [wr 0x004 0xFFFFFFFF]) = .next t := ⟨_, rfl⟩

/-! ### Witnesses: encoding -/

/-- The largest operand values that assemble, and the least bad one. -/
theorem witness_TheAssemblerEncodesCommands :
    (255 : Nat) < 256 ∧ (1 : Nat) < 2 ∧ (4294967295 : Nat) < 2 ^ 32 ∧ (2 : Nat) ≤ 2 := by decide

theorem witness_EncodeOfDecodeIsTheWord : decode 0x00003F12 = .ok (.sipblock 63 true) := by decide

/-- Each ground of illegality at a boundary: the first and last reserved opcode, the lowest and highest bit of RSV, each
unused field. -/
theorem witness_IllegalWordsCompleteWithIllegalCmd :
    ∀ w ∈ ([0x5, 0xF, 0x10001, 0x80000000, 0x10, 0x8000, 0x11, 0x81, 0x22, 0x82, 0x13, 0x83, 0x103, 0x14, 0x44, 0x8004]
        : List Word32),
      illegalWord w ∧ (demo [wr 0x010 w]).phase = .idle
        ∧ (demo [wr 0x010 w]).events = .host (.write .word 0x010 w) :: [] := by
  simp only [List.forall_mem_cons, illegalWord, unusedFieldSet]
  refine ⟨?_, ?_, ?_, ?_, ?_, ?_, ?_, ?_, ?_, ?_, ?_, ?_, ?_, ?_, ?_, ?_, by simp⟩ <;> exact ⟨by decide, rfl, rfl⟩

/-! ### Witnesses: a step runs the decoded command -/

theorem witness_CmdWriteRunsTheDecodedCommand :
    (demo [wr 0x010 0x1501]).phase = .idle
    ∧ (demo [wr 0x010 0x1501]).events = .host (.write .word 0x010 0x1501) :: []
    ∧ decode 0x1501 = .ok (.siphash 21) := ⟨rfl, rfl, by decide⟩

/-- Both ways the engine's turn comes: an engine entry in the queue, and an empty queue. -/
theorem witness_EngineTurnRunsTheSnapshotCommand :
    ((demoBusy (.seed true) [.engine, .rstN]).phase = .busy (demoSnap (.seed true))
      ∧ (demoBusy (.seed true) [.engine, .rstN]).EngineNext [.rstN]
      ∧ decode (demoSnap (.seed true)).w = .ok (.seed true))
    ∧ ((demoBusy (.seed true) []).phase = .busy (demoSnap (.seed true)) ∧ (demoBusy (.seed true) []).EngineNext []) :=
  ⟨⟨rfl, .inl rfl, by decide⟩, rfl, .inr ⟨rfl, rfl⟩⟩

theorem witness_PlacedWordRunsNext : decodeTableWord 32 0x84 = some (.seed true) := by decide

/-! ### Witnesses: acceptance -/

theorem witness_NopCompletesAtAcceptance : (demo []).phase = .idle := rfl

/-- The rotations 1 and 63; a header of exactly `HBUF_SIZE` bytes, one of exactly 4 with the nonce, and one of 0 without. -/
theorem witness_ComputeCommandsTakeTheirSnapshot :
    (demo []).phase = .idle
    ∧ (1 ≤ (1 : BitVec 8).toNat ∧ (1 : BitVec 8).toNat ≤ 63) ∧ (1 ≤ (63 : BitVec 8).toNat ∧ (63 : BitVec 8).toNat ≤ 63)
    ∧ (∀ h ∈ ([512, 4] : List (BitVec 16)), ({ demo [] with hlen := h }).phase = .idle
        ∧ h.toNat ≤ ({ demo [] with hlen := h }).build.hbufSize ∧ (true = true → 4 ≤ h.toNat))
    ∧ (((0 : BitVec 16).toNat ≤ ({ demo [] with hlen := 0 }).build.hbufSize)
        ∧ (false = true → 4 ≤ (0 : BitVec 16).toNat)) := by
  refine ⟨rfl, by decide, by decide, ?_, by decide⟩
  simp only [List.forall_mem_cons]
  exact ⟨⟨rfl, by decide, by decide⟩, ⟨rfl, by decide, by decide⟩, by simp⟩

theorem witness_BadRotationIsRejected :
    ((demo []).phase = .idle ∧ ∀ r ∈ ([0, 64, 255] : List (BitVec 8)), r.toNat = 0 ∨ 63 < r.toNat)
    ∧ ((demoBusy (.siphash 63) []).Inv ∧ (demoBusy (.siphash 63) []).phase = .busy (demoSnap (.siphash 63))
      ∧ decode (demoSnap (.siphash 63)).w = .ok (.siphash 63))
    ∧ ((demoBusy (.sipblock 1 true) []).Inv ∧ decode (demoSnap (.sipblock 1 true)).w = .ok (.sipblock 1 true)) :=
  ⟨⟨rfl, by decide⟩, ⟨demoBusy_inv _ (by decide) _, rfl, by decide⟩, demoBusy_inv _ (by decide) _, by decide⟩

/-- A header one byte too long, without and with the nonce; a header of 3 bytes with the nonce. -/
theorem witness_BadHeaderLengthIsRejected :
    ∀ p ∈ ([(513, false), (513, true), (65535, true), (3, true), (0, true)] : List (BitVec 16 × Bool)),
      ({ demo [] with hlen := p.1 }).phase = .idle
      ∧ (({ demo [] with hlen := p.1 }).build.hbufSize < ({ demo [] with hlen := p.1 }).hlen.toNat
        ∨ (p.2 = true ∧ ({ demo [] with hlen := p.1 }).hlen.toNat < 4)) := by
  simp only [List.forall_mem_cons]
  refine ⟨?_, ?_, ?_, ?_, ?_, by simp⟩ <;> exact ⟨rfl, by decide⟩

/-- One state or word for each clause: BUSY; illegal and also a bad rotation; a bad rotation; a bad header length; all
checks passed. -/
theorem witness_ChecksAreMadeInOrder :
    ((demoBusy .nop [wr 0x010 0]).events = .host (.write .word 0x010 0) :: []
      ∧ (demoBusy .nop [wr 0x010 0]).phase = .busy (demoSnap .nop))
    ∧ ((demo [wr 0x010 0x10001]).phase = .idle
      ∧ (demo [wr 0x010 0x10001]).events = .host (.write .word 0x010 0x10001) :: [] ∧ illegalWord 0x10001)
    ∧ (¬ illegalWord 0x4002 ∧ (fieldOp 0x4002 = 1 ∨ fieldOp 0x4002 = 2)
        ∧ ((fieldRot 0x4002).toNat = 0 ∨ 63 < (fieldRot 0x4002).toNat))
    ∧ (¬ illegalWord 0x84 ∧ fieldOp 0x84 = 4
        ∧ (({ demo [] with hlen := 3 }).build.hbufSize < ({ demo [] with hlen := 3 }).hlen.toNat
          ∨ (fieldNe 0x84 = true ∧ ({ demo [] with hlen := 3 }).hlen.toNat < 4)))
    ∧ (¬ illegalWord 0x3F01
        ∧ ¬ ((fieldOp 0x3F01 = 1 ∨ fieldOp 0x3F01 = 2) ∧ ((fieldRot 0x3F01).toNat = 0 ∨ 63 < (fieldRot 0x3F01).toNat))
        ∧ ¬ (fieldOp 0x3F01 = 4 ∧ ((demo []).build.hbufSize < (demo []).hlen.toNat
          ∨ (fieldNe 0x3F01 = true ∧ (demo []).hlen.toNat < 4)))) := by
  simp only [illegalWord, unusedFieldSet]
  exact ⟨⟨rfl, rfl⟩, ⟨rfl, rfl, by decide⟩, by decide, by decide, by decide⟩

/-! ### Witnesses: completion -/

theorem witness_SiphashCompletesWithKeyedHash :
    (demoBusy (.siphash 21) []).phase = .busy (demoSnap (.siphash 21)) := rfl

theorem witness_SipblockCompletesWithBlockHash :
    (demoBusy (.sipblock 21 true) []).phase = .busy (demoSnap (.sipblock 21 true)) := rfl

theorem witness_SipnodeCompletesWithTheEndpoint :
    (demoBusy (.sipnode true true) []).phase = .busy (demoSnap (.sipnode true true)) := rfl

/-- The header 01..08 without the nonce, and with the nonce 20 over its last four bytes. -/
theorem witness_SeedCompletesWithTheSplitDigest :
    ((demoBusy (.seed false) []).phase = .busy (demoSnap (.seed false))
      ∧ seedInput (demoSnap (.seed false)) false = List.map some [1, 2, 3, 4, 5, 6, 7, 8])
    ∧ ((demoBusy (.seed true) []).phase = .busy (demoSnap (.seed true))
      ∧ seedInput (demoSnap (.seed true)) true = List.map some [1, 2, 3, 4, 20, 0, 0, 0]) :=
  ⟨⟨rfl, by decide⟩, rfl, by decide⟩

/-- A header of 9 bytes of which the host wrote 8. -/
def unwrittenSnap : Snapshot := ({ demo [] with hlen := 9 }).takeSnapshot 0x4

theorem witness_SeedOverUnwrittenBytesCompletes :
    ({ demo [] with hlen := 9, phase := .busy unwrittenSnap }).phase = .busy unwrittenSnap
    ∧ none ∈ seedInput unwrittenSnap false := ⟨rfl, by decide⟩

/-- A header of 8 bytes, and one of exactly 4. -/
theorem witness_TheNonceOverwritesTheLastFourBytes :
    ((demoSnap (.seed true)).hbuf.length = (demoSnap (.seed true)).hlen.toNat ∧ 4 ≤ (demoSnap (.seed true)).hlen.toNat
      ∧ 0 < (demoSnap (.seed true)).hlen.toNat - 4)
    ∧ ((({ demo [] with hlen := 4 }).takeSnapshot 0x84).hbuf.length = 4
      ∧ (({ demo [] with hlen := 4 }).takeSnapshot 0x84).hlen.toNat = 4) := by decide

theorem witness_OnlyTheListedRegistersAreWritten :
    (∃ t, exec (.siphash 21) (demo []) = .next t ∧ (demo []).phase = .idle)
    ∧ (∃ t, exec (.siphash 21) (demoBusy (.siphash 21) []) = .next t
        ∧ (demoBusy (.siphash 21) []).phase = .busy (demoSnap (.siphash 21)) ∧ ∀ ne, Instr.siphash 21 ≠ .seed ne)
    ∧ (∃ t, exec (.seed true) (demoBusy (.seed true) []) = .next t
        ∧ (demoBusy (.seed true) []).phase = .busy (demoSnap (.seed true)) ∧ Instr.seed true = .seed true)
    ∧ (∃ t, exec .nop (demoBusy .nop []) = .next t ∧ (demoBusy .nop []).phase = .busy (demoSnap .nop)) :=
  ⟨⟨_, rfl, rfl⟩, ⟨_, rfl, rfl, by simp⟩, ⟨_, rfl, rfl, rfl⟩, ⟨_, rfl, rfl⟩⟩

/-! ### Witnesses: whole commands -/

/-- The host writes a key, rewrites NONCE and polls STATUS while the command runs. -/
def meddling : List Access := [.write .word 0x020 99, .write .word 0x040 7, .read .word 0x00C, .write .word 0x010 0]

theorem meddling_never_resets : ∀ a ∈ meddling, ¬ (Event.host a).Resets := by
  simp [meddling, Event.Resets]

theorem witness_HostAccessesDoNotDisturbARunningCommand :
    (demo (wr 0x010 (encode (.siphash 21)) :: (meddling.map Event.host ++ [.engine]))).phase = .idle
    ∧ (∃ r, commandOut (demo (wr 0x010 (encode (.siphash 21)) :: (meddling.map Event.host ++ [.engine]))) (.siphash 21)
        = some r)
    ∧ (∀ a ∈ meddling, ¬ (Event.host a).Resets)
    ∧ (demo (wr 0x010 (encode (.siphash 21)) :: (meddling.map Event.host ++ [.engine]))).events
        = .host (.write .word 0x010 (encode (.siphash 21))) :: (meddling.map Event.host ++ .engine :: []) :=
  ⟨rfl, ⟨_, rfl⟩, meddling_never_resets, rfl⟩

theorem witness_HostAccessesDoNotDisturbARunningSeed :
    (demo (wr 0x010 (encode (.seed true)) :: (meddling.map Event.host ++ [.engine]))).phase = .idle
    ∧ ([1, 2, 3, 4, 20, 0, 0, 0] : List Byte).length = (demo []).hlen.toNat
    ∧ (demo []).hlen.toNat ≤ (demo []).build.hbufSize ∧ (true = true → 4 ≤ (demo []).hlen.toNat)
    ∧ (∀ k, k < (demo []).hlen.toNat → (true = true → k < (demo []).hlen.toNat - 4) →
        (demo []).hbuf.read k = ([1, 2, 3, 4, 20, 0, 0, 0] : List Byte)[k]?)
    ∧ (true = true →
        ([1, 2, 3, 4, 20, 0, 0, 0] : List Byte).drop ((demo []).hlen.toNat - 4) = bytesLE32 (demo []).hnonce)
    ∧ (∀ a ∈ meddling, ¬ (Event.host a).Resets)
    ∧ (demo (wr 0x010 (encode (.seed true)) :: (meddling.map Event.host ++ [.engine]))).events
        = .host (.write .word 0x010 (encode (.seed true))) :: (meddling.map Event.host ++ .engine :: []) :=
  ⟨rfl, by decide, by decide, by decide, by decide, by decide, meddling_never_resets, rfl⟩

/-! ### Witnesses: who changes what -/

theorem idle_ne_busy : Phase.idle ≠ .busy (demoSnap (.siphash 21)) := nofun

/-- An accepted command, a rejected one, a completion, a reset of a BUSY core. -/
theorem witness_OnlyTheListedStepsChangeThePhase :
    (∃ t, step (demo [wr 0x010 0x1501]) = .next t ∧ (demo [wr 0x010 0x1501]).phase = .idle ∧ t.phase ≠ .idle
      ∧ passesChecks (demo []).build (demo []).hlen 0x1501 = true)
    ∧ (∃ t, step (demo [wr 0x010 0x4001]) = .next t ∧ passesChecks (demo []).build (demo []).hlen 0x4001 = false)
    ∧ (∃ t, step (demoBusy (.siphash 21) []) = .next t ∧ (demoBusy (.siphash 21) []).phase = .busy (demoSnap (.siphash 21))
      ∧ t.phase ≠ .busy (demoSnap (.siphash 21)) ∧ (demoBusy (.siphash 21) []).EngineNext [])
    ∧ (∃ t, step (demoBusy (.siphash 21) [.rstN]) = .next t ∧ t.phase ≠ .busy (demoSnap (.siphash 21))
      ∧ (demoBusy (.siphash 21) [.rstN]).ResetNext) :=
  ⟨⟨_, rfl, rfl, by decide, by decide⟩, ⟨_, rfl, by decide⟩, ⟨_, rfl, rfl, idle_ne_busy, .inr ⟨rfl, rfl⟩⟩,
    ⟨_, rfl, idle_ne_busy, ⟨_, _, rfl, .inl rfl⟩⟩⟩

/-- A completion that changes OUT, a completion that changes DIGEST and the keys, a host write that changes a key. -/
theorem witness_ResultsChangeOnlyAtCompletionOrReset :
    (∃ t, step (demoBusy (.siphash 21) []) = .next t ∧ t.out ≠ (demoBusy (.siphash 21) []).out)
    ∧ (∃ t, step (zeroHeader .sha256) = .next t ∧ t.digest ≠ (zeroHeader .sha256).digest
        ∧ t.keys ≠ (zeroHeader .sha256).keys)
    ∧ (∃ t, step (demo [wr 0x020 9]) = .next t ∧ t.keys ≠ (demo [wr 0x020 9]).keys)
    ∧ (∃ t, step (demo [wr 0x03C 9]) = .next t ∧ t.keys ≠ (demo [wr 0x03C 9]).keys) :=
  ⟨⟨_, rfl, by decide +kernel⟩, ⟨_, rfl, by decide +kernel, by decide +kernel⟩, ⟨_, rfl, by decide +kernel⟩,
    ⟨_, rfl, by decide +kernel⟩⟩

/-- A dropped write sets WERR; a W1C write of STATUS and a reset clear it. -/
theorem witness_WerrIsSticky :
    (∃ t, step (demoBusy (.siphash 21) [wr 0x1000 1]) = .next t
      ∧ (demoBusy (.siphash 21) [wr 0x1000 1]).werr = false ∧ t.werr = true)
    ∧ (∃ t, step { demo [wr 0x00C 8] with werr := true } = .next t ∧ t.werr = false)
    ∧ (∃ t, step { demo [.rstN] with werr := true } = .next t ∧ t.werr = false) :=
  ⟨⟨_, rfl, rfl, rfl⟩, ⟨_, rfl, rfl⟩, ⟨_, rfl, rfl⟩⟩

theorem witness_IrqFollowsDoneAndEnable :
    (∃ t, step { demoBusy (.siphash 21) [] with ie := true } = .next t
      ∧ ({ demoBusy (.siphash 21) [] with ie := true } : State).EngineNext []
      ∧ ({ demoBusy (.siphash 21) [] with ie := true } : State).phase = .busy (demoSnap (.siphash 21)))
    ∧ (∃ t, step { demo [wr 0x010 0x4001] with ie := true } = .next t
      ∧ ({ demo [wr 0x010 0x4001] with ie := true } : State).phase = .idle
      ∧ passesChecks (demo []).build (demo []).hlen 0x4001 = false)
    ∧ (∃ t, step { demo [wr 0x00C 2] with ie := true, done := true } = .next t ∧ (2 : Word32).getLsbD 1 = true)
    ∧ (∃ t, step { demo [wr 0x010 0x3] with ie := true, done := true } = .next t ∧ t.phase ≠ .idle)
    ∧ (∃ t, step { demo [.rstN] with ie := true, done := true } = .next t ∧ (demo [.rstN]).ResetNext)
    ∧ (∃ t, step { demo [wr 0x008 0] with ie := true, done := true } = .next t
      ∧ (0 : Word32).getLsbD 1 = false ∧ (0 : Word32).getLsbD 0 = false) :=
  ⟨⟨_, rfl, .inr ⟨rfl, rfl⟩, rfl⟩, ⟨_, rfl, rfl, by decide⟩, ⟨_, rfl, by decide⟩, ⟨_, rfl, by decide⟩,
    ⟨_, rfl, ⟨_, _, rfl, .inl rfl⟩⟩,
    ⟨_, rfl, by decide, by decide⟩⟩

/-! ### Witnesses: reset -/

theorem witness_ResetInputResetsTheCore :
    (demoBusy (.siphash 21) [.rstN, wr 0x010 0x1501]).events
      = .rstN :: (.host (.write .word 0x010 0x1501) :: []) := rfl

theorem witness_SoftResetThroughCtrl :
    ((demoBusy (.siphash 21) [wr 0x008 3]).events = .host (.write .word 0x008 3) :: [] ∧ (3 : Word32).getLsbD 1 = true)
    ∧ (2 : Word32).getLsbD 1 = true
    ∧ ((demo [wr 0x008 1]).events = .host (.write .word 0x008 1) :: [] ∧ (1 : Word32).getLsbD 1 = false) :=
  ⟨⟨rfl, by decide⟩, by decide, rfl, by decide⟩

/-! ### Witnesses: the bus -/

/-- The first and the last HBUF word of the smallest, the default and the largest build. -/
theorem witness_TheRegisterMap :
    ∀ b ∈ ([⟨.sha256, 0⟩, ⟨.sha256, 127⟩, ⟨.blake2b256, 1023⟩] : List Build),
      4 * 0 < b.hbufSize ∧ 4 * b.hbufLastWord.val < b.hbufSize := by decide

/-- Each ground of a bad access, at its boundaries, and good accesses at theirs, in the default build. -/
theorem witness_BadAccessesGetABusError :
    (∀ a ∈ ([.read .byte 0, .read .half 0, .read .double 0, .write .burst 0x1000 0, .read .word 0x001, .read .word 0x003,
        .write .word 0x012 0, .read .word 0x014, .read .word 0x01C, .read .word 0x04C, .read .word 0x068,
        .read .word 0x07C, .read .word 0x0A0, .read .word 0x0FFC, .write .word 0x1200 0, .read .word 0x1FFC]
        : List Access),
      badAccess (demo []).build a ∧ (demo [.host a]).events = .host a :: [])
    ∧ (∀ a ∈ ([.read .word 0x000, .read .word 0x010, .read .word 0x020, .read .word 0x048, .read .word 0x050,
        .write .word 0x064 0, .read .word 0x080, .read .word 0x09C, .write .word 0x1000 0, .write .word 0x11FC 0]
        : List Access),
      ¬ badAccess (demo []).build a ∧ (demo [.host a]).events = .host a :: []) := by
  simp only [List.forall_mem_cons, badAccess, reservedOffset]
  refine ⟨⟨?_, ?_, ?_, ?_, ?_, ?_, ?_, ?_, ?_, ?_, ?_, ?_, ?_, ?_, ?_, ?_, by simp⟩,
    ⟨?_, ?_, ?_, ?_, ?_, ?_, ?_, ?_, ?_, ?_, by simp⟩⟩ <;> exact ⟨by decide, rfl⟩

/-- A dropped write to the last HBUF word, an ignored write to OUT while BUSY, a write to STATUS while BUSY, a write to
EDGE_BITS while IDLE, a command while IDLE. -/
theorem witness_BusyLockedWritesAreDropped :
    (locate (demo []).build 0x11FC = some (.hbuf 127)
      ∧ (demoBusy (.siphash 21) [wr 0x11FC 1]).phase = .busy (demoSnap (.siphash 21))
      ∧ (demoBusy (.siphash 21) [wr 0x11FC 1]).events = .host (.write .word 0x11FC 1) :: [])
    ∧ (locate (demo []).build 0x060 = some (.out .lo)
      ∧ (demoBusy (.siphash 21) [wr 0x060 1]).events = .host (.write .word 0x060 1) :: [])
    ∧ (locate (demo []).build 0x00C = some .status
      ∧ (demoBusy (.siphash 21) [wr 0x00C 14]).events = .host (.write .word 0x00C 14) :: [])
    ∧ (locate (demo []).build 0x048 = some .edgeBits ∧ (demo [wr 0x048 64]).phase = .idle ∧ Loc.edgeBits ≠ .cmd
      ∧ (demo [wr 0x048 64]).events = .host (.write .word 0x048 64) :: [])
    ∧ (locate (demo []).build 0x010 = some .cmd ∧ (demo [wr 0x010 5]).phase = .idle
      ∧ (demo [wr 0x010 5]).events = .host (.write .word 0x010 5) :: []) :=
  ⟨⟨by decide, rfl, rfl⟩, ⟨by decide, rfl⟩, ⟨by decide, rfl⟩, ⟨by decide, rfl, by decide, rfl⟩, by decide, rfl, rfl⟩

/-- A read of a written HBUF word, one of a word with a byte that holds no value, and a read of the first and of the last
register. -/
theorem witness_ReadsHaveNoSideEffect :
    ((demo [rd 0x1004]).events = .host (.read .word 0x1004) :: []
      ∧ ∀ j, locate (demo [rd 0x1004]).build 0x1004 = some (.hbuf j) →
        ∀ k, k < 4 → (demo [rd 0x1004]).hbuf.read (4 * j + k) ≠ none)
    ∧ (locate (demo []).build 0x1008 = some (.hbuf 2) ∧ (demo []).hbuf.read (4 * 2 + 0) = none
      ∧ locate (demo []).build 0x1004 = some (.hbuf 1) ∧ (demo []).hbuf.read (4 * 1 + 3) = some 8)
    ∧ (((0x000 : BitVec 13), (0x53495024 : Word32)) ∈ (demo [rd 0x000]).registerValues
      ∧ (demo [rd 0x000]).events = .host (.read .word 0x000) :: [])
    ∧ (((0x09C : BitVec 13), (0 : Word32)) ∈ (demo [rd 0x09C]).registerValues
      ∧ (demo [rd 0x09C]).events = .host (.read .word 0x09C) :: []) := by
  refine ⟨⟨rfl, fun j hj => ?_⟩, by decide, ⟨by decide, rfl⟩, by decide, rfl⟩
  have h : locate (demo [rd 0x1004]).build 0x1004 = some (.hbuf 1) := by decide
  rw [h] at hj
  cases hj
  decide

/-- The offsets at both ends of the table of writes, and halves that differ. -/
theorem witness_RegisterWritesReadBack :
    ((demo [wr 0x020 9]).phase = .idle ∧ (demo [wr 0x020 9]).events = .host (.write .word 0x020 9) :: []
      ∧ ∃ t, ((0x020 : BitVec 13), t) ∈ (demo [wr 0x020 9]).registerWrites 9)
    ∧ ((demo [wr 0x05C 9]).events = .host (.write .word 0x05C 9) :: []
      ∧ ∃ t, ((0x05C : BitVec 13), t) ∈ (demo [wr 0x05C 9]).registerWrites 9)
    ∧ ((3, Half.hi) : Fin 4 × Half) ≠ (3, .lo) ∧ ((0, Half.lo) : Fin 4 × Half) ≠ (3, .lo) ∧ Half.hi ≠ Half.lo :=
  ⟨⟨rfl, rfl, _, List.mem_of_getElem? (i := 0) rfl⟩, ⟨rfl, _, List.mem_of_getElem? (i := 12) rfl⟩,
    by decide, by decide, by decide⟩

/-- The first and the last word of the default buffer. -/
theorem witness_HbufWordWriteStoresFourBytes :
    ((demo [wr 0x1000 1]).phase = .idle ∧ (demo [wr 0x1000 1]).events = .host (.write .word 0x1000 1) :: []
      ∧ (0x1000 : BitVec 13).toNat = 0x1000 + 4 * 0 ∧ 4 * 0 < (demo []).build.hbufSize)
    ∧ ((demo [wr 0x11FC 1]).events = .host (.write .word 0x11FC 1) :: []
      ∧ (0x11FC : BitVec 13).toNat = 0x1000 + 4 * 127 ∧ 4 * 127 < (demo []).build.hbufSize) :=
  ⟨⟨rfl, rfl, by decide, by decide⟩, rfl, by decide, by decide⟩

theorem witness_HbufWordReadReturnsFourBytes :
    (demo [rd 0x1004]).events = .host (.read .word 0x1004) :: []
    ∧ (0x1004 : BitVec 13).toNat = 0x1000 + 4 * 1 ∧ 4 * 1 < (demo []).build.hbufSize
    ∧ (demo []).hbuf.read (4 * 1) = some 5 ∧ (demo []).hbuf.read (4 * 1 + 1) = some 6
    ∧ (demo []).hbuf.read (4 * 1 + 2) = some 7 ∧ (demo []).hbuf.read (4 * 1 + 3) = some 8 :=
  ⟨rfl, by decide, by decide, by decide, by decide, by decide, by decide⟩

theorem witness_StatusFieldsAndWriteOneToClear :
    (demoBusy (.siphash 21) [wr 0x00C 0xFFFFFFFF]).events = .host (.write .word 0x00C 0xFFFFFFFF) :: [] := rfl

/-- The write of 64 to the six-bit register. -/
theorem witness_EdgeMaskIsAllOnesBelowEdgeBits :
    (demo [wr 0x048 64]).phase = .idle ∧ (demo [wr 0x048 64]).events = .host (.write .word 0x048 64) :: [] := ⟨rfl, rfl⟩

/-! ### Witnesses: races -/

theorem witness_RacingCommandWrite :
    ((demoBusy (.siphash 21) [wr 0x010 5, .engine]).Inv
      ∧ (demoBusy (.siphash 21) [wr 0x010 5, .engine]).phase = .busy (demoSnap (.siphash 21))
      ∧ (demoBusy (.siphash 21) [wr 0x010 5, .engine]).events = .host (.write .word 0x010 5) :: .engine :: [])
    ∧ ((demoBusy (.siphash 21) [.engine, wr 0x010 5]).Inv
      ∧ (demoBusy (.siphash 21) [.engine, wr 0x010 5]).events = .engine :: .host (.write .word 0x010 5) :: []) :=
  ⟨⟨demoBusy_inv _ (by decide) _, rfl, rfl⟩, demoBusy_inv _ (by decide) _, rfl⟩

theorem witness_RacingDoneClear :
    ((demoBusy (.siphash 21) [wr 0x00C 2, .engine]).Inv
      ∧ (demoBusy (.siphash 21) [wr 0x00C 2, .engine]).phase = .busy (demoSnap (.siphash 21))
      ∧ (2 : Word32).getLsbD 1 = true
      ∧ (demoBusy (.siphash 21) [wr 0x00C 2, .engine]).events = .host (.write .word 0x00C 2) :: .engine :: [])
    ∧ ((demoBusy (.siphash 21) [.engine, wr 0x00C 2]).Inv
      ∧ (demoBusy (.siphash 21) [.engine, wr 0x00C 2]).events = .engine :: .host (.write .word 0x00C 2) :: []) :=
  ⟨⟨demoBusy_inv _ (by decide) _, rfl, by decide, rfl⟩, demoBusy_inv _ (by decide) _, rfl⟩

theorem witness_RacingSoftReset :
    ((demoBusy (.seed true) [wr 0x008 2, .engine]).Inv
      ∧ (demoBusy (.seed true) [wr 0x008 2, .engine]).phase = .busy (demoSnap (.seed true))
      ∧ (2 : Word32).getLsbD 1 = true
      ∧ (demoBusy (.seed true) [wr 0x008 2, .engine]).events = .host (.write .word 0x008 2) :: .engine :: [])
    ∧ ((demoBusy (.seed true) [.engine, wr 0x008 2]).Inv
      ∧ (demoBusy (.seed true) [.engine, wr 0x008 2]).events = .engine :: .host (.write .word 0x008 2) :: []) :=
  ⟨⟨demoBusy_inv _ (by decide) _, rfl, by decide, rfl⟩, demoBusy_inv _ (by decide) _, rfl⟩

/-- SIPHASH, SIPBLOCK and SIPNODE, and SEED with the first and the last key word, in both orders of the reads. -/
theorem witness_TornReadOfTheResult :
    (∀ i ∈ ([.siphash 21, .sipblock 21 true, .sipnode true true] : List Instr),
      (demoBusy i [rd 0x060, .engine, rd 0x064]).phase = .busy (demoSnap i)
      ∧ decode (demoSnap i).w = .ok i ∧ (∃ r, snapshotOut (demoSnap i) i = some r)
      ∧ (demoBusy i [rd 0x060, .engine, rd 0x064]).events
          = .host (.read .word 0x060) :: .engine :: .host (.read .word 0x064) :: []
      ∧ (demoBusy i [rd 0x064, .engine, rd 0x060]).events
          = .host (.read .word 0x064) :: .engine :: .host (.read .word 0x060) :: [])
    ∧ ((demoBusy (.seed true) [rd 0x020, .engine, rd 0x024]).phase = .busy (demoSnap (.seed true))
      ∧ decode (demoSnap (.seed true)).w = .ok (.seed true)
      ∧ seedInput (demoSnap (.seed true)) true = List.map some [1, 2, 3, 4, 20, 0, 0, 0]
      ∧ (0x020 : BitVec 13).toNat = 0x020 + 8 * (0 : Fin 4).val ∧ (0x024 : BitVec 13).toNat = 0x024 + 8 * (0 : Fin 4).val
      ∧ (demoBusy (.seed true) [rd 0x020, .engine, rd 0x024]).events
          = .host (.read .word 0x020) :: .engine :: .host (.read .word 0x024) :: [])
    ∧ ((0x038 : BitVec 13).toNat = 0x020 + 8 * (3 : Fin 4).val ∧ (0x03C : BitVec 13).toNat = 0x024 + 8 * (3 : Fin 4).val
      ∧ (demoBusy (.seed true) [rd 0x03C, .engine, rd 0x038]).events
          = .host (.read .word 0x03C) :: .engine :: .host (.read .word 0x038) :: []) := by
  refine ⟨?_, ⟨rfl, by decide, by decide, by decide, by decide, rfl⟩, by decide, by decide, rfl⟩
  simp only [List.forall_mem_cons]
  refine ⟨?_, ?_, ?_, by simp⟩ <;> exact ⟨rfl, by decide, ⟨_, rfl⟩, rfl, rfl⟩

/-! ### Witnesses: the functions -/

/-- The first and the last nonce of a block have one base; the last but one and the last index of a block. -/
theorem witness_BlockBufferChains : blockBase 64 = blockBase 127 := by decide

theorem witness_BlockHashSpan :
    blockIndex 64 = 0 ∧ blockIndex 126 = 62 ∧ blockIndex 127 = 63 ∧ blockIndex 0xFFFFFFFFFFFFFFFF = 63 := by decide

/-- A message whose padding needs 7 zero bytes after 48 of content, so that smaller counts exist. -/
theorem witness_ShaPaddingFillsWholeBlocks : (0 : Nat) < 7 ∧ (48 + 1 + 7) % 64 = 56 := by decide

theorem witness_BlakeBlocksCoverTheMessage : ([1] : List Byte).length ≠ 0 := by decide

end Sys2Proof.Tests
end

section
/-! The fixed offsets of the control registers, the halves of a 64-bit register put together, and the fields of CAPS
(spec/10_state.md R22, R23, R36). -/

namespace Sys2Proof.Machine

/-! ### Where the registers written by a fixed offset lie -/

@[simp] theorem locate_ctrl (b : Build) : locate b 0x008 = some .ctrl := rfl
@[simp] theorem locate_status (b : Build) : locate b 0x00C = some .status := rfl
@[simp] theorem locate_cmd (b : Build) : locate b 0x010 = some .cmd := rfl
@[simp] theorem locate_edgeBits (b : Build) : locate b 0x048 = some .edgeBits := rfl

/-! ### Halves -/

theorem getHalf_zero (h : Half) : getHalf 0 h = 0 := by cases h <;> rfl

/-- The two halves of a 64-bit register, high half first, are the register (10_state.md R36). -/
@[simp] theorem getHalf_hi_append_lo (v : Word64) : getHalf v .hi ++ getHalf v .lo = v := by
  refine BitVec.eq_of_getLsbD_eq fun i hi => ?_
  simp only [getHalf, BitVec.getLsbD_append, BitVec.getLsbD_extractLsb']
  split
  next hlow => simp [hlow]
  next =>
    have hsub : i - 32 < 32 := by omega
    have hadd : 32 + (i - 32) = i := by omega
    simp [hsub, hadd]

theorem Keys.get_zero (j : Fin 4) : (⟨0, 0, 0, 0⟩ : Keys).get j = 0 := by
  fin_cases j <;> rfl

theorem DigestRegs.get_zero (w : Fin 8) : (⟨0, 0, 0, 0, 0, 0, 0, 0⟩ : DigestRegs).get w = 0 := by
  fin_cases w <;> rfl

theorem edgeMask_zero : edgeMask 0 = 0 := by decide

/-! ### CAPS -/

theorem hbufSize_bounds (b : Build) : 4 ≤ b.hbufSize ∧ b.hbufSize ≤ 4096 ∧ b.hbufSize % 4 = 0 := by
  have := b.hbufLastWord.isLt
  unfold Build.hbufSize
  omega

theorem digestAlgCode_cases (a : DigestAlg) :
    a = .sha256 ∧ digestAlgCode a = 0 ∨ a = .blake2b256 ∧ digestAlgCode a = 1 := by
  cases a <;> simp [digestAlgCode]

theorem capsWord_digestAlg (b : Build) : (capsWord b).extractLsb' 0 2 = digestAlgCode b.digestAlg := by
  refine BitVec.eq_of_getLsbD_eq fun i hi => ?_
  simp only [capsWord, BitVec.getLsbD_append, BitVec.getLsbD_extractLsb', Nat.zero_add]
  simp [hi]

theorem capsWord_reserved (b : Build) : (capsWord b).extractLsb' 2 6 = 0 := by
  refine BitVec.eq_of_getLsbD_eq fun i hi => ?_
  have hlow : ¬ 2 + i < 2 := by omega
  simp only [capsWord, BitVec.getLsbD_append, BitVec.getLsbD_extractLsb']
  simp [hi, hlow]

theorem capsWord_block (b : Build) : (capsWord b).extractLsb' 8 8 = 64 := by
  refine BitVec.eq_of_getLsbD_eq fun i hi => ?_
  have hlow : ¬ 8 + i < 2 := by omega
  have hmid : ¬ 8 + i - 2 < 6 := by omega
  have hidx : 8 + i - 2 - 6 = i := by omega
  simp only [capsWord, BitVec.getLsbD_append, BitVec.getLsbD_extractLsb']
  simp [hi, hlow, hmid, hidx]

theorem capsWord_hbufSize (b : Build) : ((capsWord b).extractLsb' 16 16).toNat = b.hbufSize := by
  have hfield : (capsWord b).extractLsb' 16 16 = BitVec.ofNat 16 b.hbufSize := by
    refine BitVec.eq_of_getLsbD_eq fun i hi => ?_
    have hlow : ¬ 16 + i < 2 := by omega
    have hmid : ¬ 16 + i - 2 < 6 := by omega
    have hblk : ¬ 16 + i - 2 - 6 < 8 := by omega
    have hidx : 16 + i - 2 - 6 - 8 = i := by omega
    simp only [capsWord, BitVec.getLsbD_append, BitVec.getLsbD_extractLsb']
    simp [hi, hlow, hmid, hblk, hidx]
  have := hbufSize_bounds b
  rw [hfield, BitVec.toNat_ofNat]
  omega

end Sys2Proof.Machine
end

section
/-! What one step can do, as one relation with a constructor for each kind of step, and the outcome of each half of a
command (spec/20_memory.md R64 to R71; 40_commands.md R111 to R115; 70_reset_and_hazards.md R261). -/

namespace Sys2Proof.Machine

/-! ### The outcome of a command -/

/-- A compute command that passes its checks starts (40_commands.md R111). -/
theorem acceptCommand_of_passesChecks {s : State} {w : Word32} (hp : s.phase = .idle)
    (hc : passesChecks s.build s.hlen w = true) :
    ∃ i, decode w = .ok i ∧ acceptCommand w s = .next ((s.accept (encode i)).start (encode i)) := by
  rcases acceptCommand_cases w s with ⟨e, hd, -⟩ | ⟨i, hd, ha⟩
  · simp [passesChecks, hd] at hc
  · refine ⟨i, hd, ha.trans ((exec_idle i s hp).trans ?_)⟩
    cases i <;> simp_all [passesChecks]

/-- Every other word completes in its acceptance step: NOP with success, the rest with an error
(40_commands.md R111, R117). -/
theorem acceptCommand_of_not_passesChecks {s : State} {w : Word32} (hp : s.phase = .idle)
    (hc : passesChecks s.build s.hlen w = false) :
    ∃ u, acceptCommand w s = .next (s.accept u).complete
      ∨ ∃ c, acceptCommand w s = .next ((s.accept u).raiseError c) := by
  rcases acceptCommand_cases w s with ⟨e, -, ha⟩ | ⟨i, hd, ha⟩
  · exact ⟨w, .inr ⟨_, ha⟩⟩
  · refine ⟨encode i, ?_⟩
    rw [ha, exec_idle i s hp]
    cases i with
    | nop => exact .inl rfl
    | siphash rot => exact .inr ⟨.badRot, by simp_all [passesChecks]⟩
    | sipblock rot xa => exact .inr ⟨.badRot, by simp_all [passesChecks]⟩
    | sipnode uorv sh => simp [passesChecks, hd] at hc
    | seed ne => exact .inr ⟨.badHlen, by simp_all [passesChecks]⟩

/-- The completion of a command in flight, whatever the command: the status and phase it leaves, and what every
completion keeps (40_commands.md R115, R120). -/
theorem exec_busy_status {s t : State} {snap : Snapshot} {i : Instr} (hp : s.phase = .busy snap)
    (h : exec i s = .next t) :
    t.phase = .idle ∧ t.done = true ∧ t.ie = s.ie ∧ t.build = s.build := by
  rw [exec_busy i s hp, Host.Outcome.next.injEq] at h
  subst h
  cases i <;> simp

/-- What an accepted CMD write can leave: a started command, a success, or an error (40_commands.md R111). -/
theorem acceptCommand_next_cases {s t : State} {w : Word32} (hp : s.phase = .idle) (h : acceptCommand w s = .next t) :
    (passesChecks s.build s.hlen w = true ∧ ∃ u, t = (s.accept u).start u)
    ∨ (passesChecks s.build s.hlen w = false ∧ ∃ u, t = (s.accept u).complete ∨ ∃ c, t = (s.accept u).raiseError c) := by
  cases hc : passesChecks s.build s.hlen w with
  | true =>
    obtain ⟨i, -, ha⟩ := acceptCommand_of_passesChecks hp hc
    exact .inl ⟨rfl, encode i, Host.Outcome.next.inj (h.symm.trans ha)⟩
  | false =>
    obtain ⟨u, ha | ⟨c, ha⟩⟩ := acceptCommand_of_not_passesChecks hp hc
    · exact .inr ⟨rfl, u, .inl (Host.Outcome.next.inj (h.symm.trans ha))⟩
    · exact .inr ⟨rfl, u, .inr ⟨c, Host.Outcome.next.inj (h.symm.trans ha)⟩⟩

theorem acceptCommand_build {s t : State} {w : Word32} (hp : s.phase = .idle) (h : acceptCommand w s = .next t) :
    t.build = s.build := by
  obtain ⟨-, u, rfl⟩ | ⟨-, u, rfl | ⟨c, rfl⟩⟩ := acceptCommand_next_cases hp h <;> rfl

/-- The acceptance of a command that leaves the core BUSY clears DONE (40_commands.md R113). -/
theorem acceptCommand_done_of_busy {s t : State} {w : Word32} (hp : s.phase = .idle)
    (h : acceptCommand w s = .next t) (ht : t.phase ≠ .idle) : t.done = false := by
  obtain ⟨-, u, rfl⟩ | ⟨-, u, rfl | ⟨c, rfl⟩⟩ := acceptCommand_next_cases hp h
  · rfl
  · exact absurd rfl ht
  · exact absurd hp ht

/-- A word that starts no compute command leaves DONE set and IE as it was (40_commands.md R111; 10_state.md R40). -/
theorem acceptCommand_done_ie_of_not_passesChecks {s t : State} {w : Word32} (hp : s.phase = .idle)
    (hc : passesChecks s.build s.hlen w = false) (h : acceptCommand w s = .next t) :
    t.done = true ∧ t.ie = s.ie := by
  obtain ⟨hpass, -⟩ | ⟨-, u, rfl | ⟨c, rfl⟩⟩ := acceptCommand_next_cases hp h
  · simp [hc] at hpass
  · exact ⟨rfl, rfl⟩
  · exact ⟨rfl, rfl⟩

/-! ### Writes to a location -/

theorem hostWrite_cmd {s : State} (off : BitVec 13) (w : Word32) (hp : s.phase = .idle) :
    hostWrite off .cmd w s = acceptCommand w (s.respondOkay 0) := by
  simp [hostWrite, hp]

theorem hostWrite_of_writable {s : State} (off : BitVec 13) {l : Loc} (v : Word32) (hl : l ≠ .cmd)
    (hw : s.phase = .idle ∨ l.busyLocked = false) :
    hostWrite off l v s = .next ((s.respondOkay 0).writeLoc l v) := by
  rcases hw with hw | hw <;> simp [hostWrite, hw, hl]

theorem hostWrite_of_busyLocked {s : State} (off : BitVec 13) {l : Loc} (v : Word32) (hp : s.phase.isBusy = true)
    (hl : l.busyLocked = true) : hostWrite off l v s = .next (s.dropWrite off) := by
  simp [hostWrite, hp, hl]

theorem State.writeCtrl_of_srst {v : Word32} (s : State) (hv : v.getLsbD 1 = true) : s.writeCtrl v = s.coreReset :=
  if_pos hv

theorem State.writeCtrl_of_not_srst {v : Word32} (s : State) (hv : v.getLsbD 1 = false) :
    s.writeCtrl v = { s with ie := v.getLsbD 0 } :=
  if_neg (Bool.not_eq_true _ ▸ hv)

/-- A write to a location keeps the build, and the phase too unless it resets the core (10_state.md R24; 20_memory.md
R69). -/
theorem State.writeLoc_build_phase (s : State) (l : Loc) (v : Word32) :
    (s.writeLoc l v).build = s.build ∧ ((s.writeLoc l v).phase = s.phase ∨ (s.writeLoc l v).phase = .idle) := by
  cases l with
  | ctrl =>
    change (s.writeCtrl v).build = _ ∧ ((s.writeCtrl v).phase = _ ∨ (s.writeCtrl v).phase = _)
    cases hv : v.getLsbD 1 with
    | true => rw [s.writeCtrl_of_srst hv]; exact ⟨rfl, .inr rfl⟩
    | false => rw [s.writeCtrl_of_not_srst hv]; exact ⟨rfl, .inl rfl⟩
  | _ => exact ⟨rfl, .inl rfl⟩

/-! ### The kinds of step -/

/-- The kinds of step that answer a next state, each with the input it takes and the state it leaves. -/
inductive StepTo (s : State) : State → Prop
  /-- The engine's turn while IDLE (70_reset_and_hazards.md R263). -/
  | wait (rest : List Event) : s.EngineNext rest → s.phase = .idle → StepTo s (s.beginStep rest)
  /-- The completion of the command in flight (40_commands.md R115). -/
  | completion (rest : List Event) (snap : Snapshot) (i : Instr) (t : State) : s.EngineNext rest →
      s.phase = .busy snap → decode snap.w = .ok i → exec i (s.beginStep rest) = .next t → StepTo s t
  /-- `rst_n` (70_reset_and_hazards.md R261). -/
  | rstN (rest : List Event) : s.events = .rstN :: rest → StepTo s (s.beginStep rest).coreReset
  /-- An access with the ERROR answer (20_memory.md R64). -/
  | busError (rest : List Event) (a : Access) : s.events = .host a :: rest →
      a.size ≠ .word ∨ locate s.build a.offset = none → StepTo s ((s.beginStep rest).respondError a.size a.offset)
  /-- A read (20_memory.md R65). -/
  | read (rest : List Event) (off : BitVec 13) (l : Loc) : s.events = .host (.read .word off) :: rest →
      locate s.build off = some l → StepTo s (hostRead l (s.beginStep rest))
  /-- A write that is dropped (20_memory.md R71). -/
  | dropped (rest : List Event) (off : BitVec 13) (l : Loc) (v : Word32) :
      s.events = .host (.write .word off v) :: rest → locate s.build off = some l → s.phase.isBusy = true →
      l.busyLocked = true → StepTo s ((s.beginStep rest).dropWrite off)
  /-- A write to CMD that is accepted (40_commands.md R111). -/
  | command (rest : List Event) (off : BitVec 13) (w : Word32) (t : State) :
      s.events = .host (.write .word off w) :: rest → locate s.build off = some .cmd → s.phase = .idle →
      acceptCommand w ((s.beginStep rest).respondOkay 0) = .next t → StepTo s t
  /-- A write that is performed (20_memory.md R69). -/
  | write (rest : List Event) (off : BitVec 13) (l : Loc) (v : Word32) :
      s.events = .host (.write .word off v) :: rest → locate s.build off = some l → l ≠ .cmd →
      s.phase = .idle ∨ l.busyLocked = false → StepTo s (((s.beginStep rest).respondOkay 0).writeLoc l v)

/-- The engine's turn while BUSY completes the command of the snapshot, if the step answers a next state. -/
theorem step_completion {s t : State} {rest : List Event} {snap : Snapshot} (he : s.EngineNext rest)
    (hp : s.phase = .busy snap) (h : step s = .next t) :
    ∃ i, decode snap.w = .ok i ∧ exec i (s.beginStep rest) = .next t := by
  rw [step_engine he] at h
  rcases engineTurn_cases (s.beginStep rest) with ⟨hi, -⟩ | ⟨snap', i, hb, hd, hx⟩ | ⟨snap', e, -, -, hx⟩
  · simp [hp] at hi
  · obtain rfl : snap = snap' := by simpa [hp] using hb
    exact ⟨i, hd, hx.symm.trans h⟩
  · simp [hx] at h

/-- Every step that answers a next state is of one of the kinds of `StepTo`. -/
theorem stepTo_of_step {s t : State} (h : step s = .next t) : StepTo s t := by
  rcases step_cases s with ⟨rest, he, hs⟩ | ⟨rest, he, hs⟩ | ⟨a, rest, he, hs⟩
  · cases hp : s.phase with
    | idle =>
      obtain rfl : s.beginStep rest = t := by simpa [hs, engineTurn, hp] using h
      exact .wait rest he hp
    | busy snap =>
      obtain ⟨i, hd, hx⟩ := step_completion he hp h
      exact .completion rest snap i t he hp hd hx
  · obtain rfl := Host.Outcome.next.inj (hs.symm.trans h)
    exact .rstN rest he
  · rcases hostAccess_cases a (s.beginStep rest) with ⟨hbad, ha⟩ | ⟨off, l, rfl, hl, ha⟩ | ⟨off, v, l, rfl, hl, ha⟩
    · obtain rfl := Host.Outcome.next.inj ((hs.trans ha).symm.trans h)
      exact .busError rest a he hbad
    · obtain rfl := Host.Outcome.next.inj ((hs.trans ha).symm.trans h)
      exact .read rest off l he hl
    · have hw : hostWrite off l v (s.beginStep rest) = .next t := (hs.trans ha).symm.trans h
      rcases hostWrite_cases off l v (s.beginStep rest) with ⟨hp, hb, hx⟩ | ⟨hp, rfl, hx⟩ | ⟨hne, hp, hx⟩
      · obtain rfl := Host.Outcome.next.inj (hx.symm.trans hw)
        exact .dropped rest off l v he hl hp hb
      · exact .command rest off v t he hl hp (hx.symm.trans hw)
      · obtain rfl := Host.Outcome.next.inj (hx.symm.trans hw)
        exact .write rest off l v he hl hne hp

/-- The steps that answer a next state are exactly those of `StepTo`. -/
theorem step_eq_next_iff {s t : State} : step s = .next t ↔ StepTo s t := by
  refine ⟨stepTo_of_step, fun h => ?_⟩
  cases h with
  | wait rest he hp => simp [step_engine he, engineTurn, hp]
  | completion rest snap i t he hp hd hx => simpa [step_engine he, engineTurn, hp, hd] using hx
  | rstN rest he => exact step_rstN he
  | busError rest a he hbad => rcases hbad with hbad | hbad <;> simp [step_host he, hostAccess, hbad]
  | read rest off l he hl => exact step_read he hl
  | dropped rest off l v he hl hp hb => exact (step_write he hl).trans (hostWrite_of_busyLocked off v hp hb)
  | command rest off w t he hl hp hx =>
    exact (step_write he hl).trans ((hostWrite_cmd (s := s.beginStep rest) off w hp).trans hx)
  | write rest off l v he hl hne hp => exact (step_write he hl).trans (hostWrite_of_writable off v hne hp)

/-- No step changes the build (00_scope.md R8). -/
theorem step_build {s t : State} (h : step s = .next t) : t.build = s.build := by
  cases stepTo_of_step h with
  | completion rest snap i t he hp hd hx =>
    obtain ⟨-, -, -, hb⟩ := exec_busy_status (s := s.beginStep rest) hp hx
    exact hb
  | command rest off w t he hl hp hx => exact acceptCommand_build (s := (s.beginStep rest).respondOkay 0) hp hx
  | write rest off l v he hl hne hp => exact (State.writeLoc_build_phase _ l v).1
  | _ => rfl

/-- A step that leaves IDLE accepts a compute command, so it clears DONE (40_commands.md R110, R113). -/
theorem step_done_of_leaves_idle {s t : State} (h : step s = .next t) (hp : s.phase = .idle)
    (ht : t.phase ≠ .idle) : t.done = false := by
  cases stepTo_of_step h with
  | wait => exact absurd hp ht
  | completion rest snap i t he hb hd hx => simp [hp] at hb
  | rstN => exact absurd rfl ht
  | busError => exact absurd hp ht
  | read => exact absurd hp ht
  | dropped => exact absurd hp ht
  | command rest off w t he hl hi hx =>
    exact acceptCommand_done_of_busy (s := (s.beginStep rest).respondOkay 0) hp hx ht
  | write rest off l v =>
    obtain ⟨-, hsame | hidle⟩ := ((s.beginStep rest).respondOkay 0).writeLoc_build_phase l v
    · exact absurd (hsame.trans hp) ht
    · exact absurd hidle ht

/-! ### Steps at a fixed offset -/

section
variable {s t : State} {rest : List Event} {v : Word32}

/-- A write to CTRL is performed in either phase (20_memory.md R71; 10_state.md R24). -/
theorem step_write_ctrl (he : s.events = .host (.write .word 0x008 v) :: rest) :
    step s = .next (((s.beginStep rest).respondOkay 0).writeCtrl v) :=
  (step_write he (locate_ctrl _)).trans (hostWrite_of_writable _ v nofun (.inr rfl))

/-- A write to STATUS is performed in either phase (20_memory.md R71; 10_state.md R25). -/
theorem step_write_status (he : s.events = .host (.write .word 0x00C v) :: rest) :
    step s = .next (((s.beginStep rest).respondOkay 0).writeStatus v) :=
  (step_write he (locate_status _)).trans (hostWrite_of_writable _ v nofun (.inr rfl))

/-- A write to CMD while IDLE is an acceptance (40_commands.md R111). -/
theorem step_write_cmd (hp : s.phase = .idle) (he : s.events = .host (.write .word 0x010 v) :: rest) :
    step s = acceptCommand v ((s.beginStep rest).respondOkay 0) :=
  (step_write he (locate_cmd _)).trans (hostWrite_cmd _ v hp)

/-- A write to EDGE_BITS while IDLE is performed (10_state.md R29). -/
theorem step_write_edgeBits (hp : s.phase = .idle) (he : s.events = .host (.write .word 0x048 v) :: rest) :
    step s = .next (((s.beginStep rest).respondOkay 0).writeLoc .edgeBits v) :=
  (step_write he (locate_edgeBits _)).trans (hostWrite_of_writable _ v nofun (.inl hp))

/-- Either input that resets the core resets it, after the step's own bookkeeping (70_reset_and_hazards.md R260 to
R262). -/
theorem step_reset (h : s.ResetNext) : ∃ u : State, step s = .next u.coreReset := by
  obtain ⟨e, rest, he, rfl | ⟨v, rfl, hv⟩⟩ := h
  · exact ⟨_, step_rstN he⟩
  · exact ⟨(s.beginStep rest).respondOkay 0, (step_write_ctrl he).trans (by rw [State.writeCtrl_of_srst _ hv])⟩

end

end Sys2Proof.Machine
end

section
/-! The obligations about the state: its reset values, CAPS, EDGE_MASK and `irq` (spec/10_state.md R23, R30, R40, R42). -/

namespace Sys2Proof.Proofs

open Sys2Proof.Machine

/-! ### Reset -/

theorem readLoc_edgeMask_resetOf (b : Build) (h : Half) : (State.resetOf b).readLoc (.edgeMask h) = 0 := by
  simp only [State.readLoc, State.resetOf, edgeMask_zero, getHalf_zero]

theorem hasResetValues_resetOf (b : Build) : (State.resetOf b).HasResetValues := by
  have hctrl : (State.resetOf b).readLoc .ctrl = 0 := by
    simp [State.readLoc, State.resetOf, State.ctrlWord]
  have hstatus : (State.resetOf b).readLoc .status = 0 := by
    simp [State.readLoc, State.resetOf, State.statusWord]
  have hkey (j : Fin 4) (h : Half) : (State.resetOf b).readLoc (.key j h) = 0 := by
    simp only [State.readLoc, State.resetOf, Keys.get_zero, getHalf_zero]
  exact ⟨rfl, rfl, hctrl, hstatus, rfl, hkey, getHalf_zero, rfl, readLoc_edgeMask_resetOf b, rfl, rfl, getHalf_zero,
    DigestRegs.get_zero, fun _ => rfl, rfl, rfl⟩

/-- What a reset keeps (log entry 13) is none of the state that 10_state.md R42 lists. -/
theorem hasResetValues_coreReset (s : State) : s.coreReset.HasResetValues := hasResetValues_resetOf s.build

/-- Settles O1: the reset state by its definition, and both kinds of reset because each ends in `coreReset`. -/
theorem resetLeavesTheStatedValues : Obligations.ResetLeavesTheStatedValues := by
  refine ⟨hasResetValues_resetOf, fun s hs => ?_⟩
  obtain ⟨u, hu⟩ := step_reset hs
  exact ⟨_, hu, hasResetValues_coreReset u⟩

/-! ### CAPS -/

/-- Settles O6: CAPS is a function of the build alone, and no step changes the build. -/
theorem capsReportsTheBuildForEver : Obligations.CapsReportsTheBuildForEver := by
  intro s
  obtain ⟨hmin, hmax, hmul⟩ := hbufSize_bounds s.build
  exact ⟨capsWord_digestAlg _, digestAlgCode_cases _, capsWord_reserved _, capsWord_block _, capsWord_hbufSize _,
    hmin, hmax, hmul, fun t h => congrArg capsWord (step_build h)⟩

/-! ### EDGE_MASK -/

/-- The two halves of EDGE_MASK together, as a number (10_state.md R30). -/
theorem toNat_readLoc_edgeMask (s : State) :
    (s.readLoc (.edgeMask .hi) ++ s.readLoc (.edgeMask .lo)).toNat = 2 ^ s.edgeBits.toNat - 1 := by
  simp only [State.readLoc, getHalf_hi_append_lo, toNat_edgeMask]

/-- Settles O43: EDGE_MASK is computed from EDGE_BITS at every read, so it follows the write to EDGE_BITS at once. -/
theorem edgeMaskIsAllOnesBelowEdgeBits : Obligations.EdgeMaskIsAllOnesBelowEdgeBits := by
  refine ⟨fun s => ⟨toNat_readLoc_edgeMask s, fun rest v hp he => ?_⟩, fun _ _ _ => rfl, readLoc_edgeMask_resetOf⟩
  refine ⟨_, step_write_edgeBits hp he, ?_⟩
  rw [toNat_readLoc_edgeMask]
  simp [State.writeLoc, BitVec.extractLsb'_toNat]

/-! ### irq -/

/-- Settles O32: each clause by the one step it speaks of, which leaves DONE and IE as the clause needs. -/
theorem irqFollowsDoneAndEnable : Obligations.IrqFollowsDoneAndEnable := by
  intro s t h
  refine ⟨by simp [State.irq], fun rest snap he hp => ?completion, fun rest w hp he hc => ?rejection,
    fun rest v he hv => ?doneCleared, fun hp ht => ?acceptance, fun hr => ?reset, fun rest v he hs hi => ?disabled⟩
  case completion =>
    obtain ⟨i, -, hx⟩ := step_completion he hp h
    obtain ⟨-, hdone, hie, -⟩ := exec_busy_status (s := s.beginStep rest) hp hx
    simp [State.irq, hdone, hie]
  case rejection =>
    have ha := (step_write_cmd hp he).symm.trans h
    obtain ⟨hdone, hie⟩ :=
      acceptCommand_done_ie_of_not_passesChecks (s := (s.beginStep rest).respondOkay 0) hp hc ha
    simp [State.irq, hdone, hie]
  case doneCleared =>
    obtain rfl := Host.Outcome.next.inj ((step_write_status he).symm.trans h)
    simp [State.irq, hv]
  case acceptance =>
    simp [State.irq, step_done_of_leaves_idle h hp ht]
  case reset =>
    obtain ⟨u, hu⟩ := step_reset hr
    obtain rfl := Host.Outcome.next.inj (hu.symm.trans h)
    rfl
  case disabled =>
    obtain rfl := Host.Outcome.next.inj ((step_write_ctrl he).symm.trans h)
    rw [State.writeCtrl_of_not_srst _ hs]
    exact ⟨by simp only [State.irq, hi, Bool.false_and], rfl⟩

end Sys2Proof.Proofs
end

section
/-! A command word that decodes is the word of its command: masking with a row of the opcode map keeps the fields that the
row fixes (spec/30_encoding.md R91, R93, R94). -/

namespace Sys2Proof

/-- A field inside the mask is fixed by the masked word. -/
theorem extractLsb'_eq_of_and_eq {w m b : Word32} (h : w &&& m = b) (start len : Nat)
    (hm : m.extractLsb' start len = BitVec.allOnes len) : w.extractLsb' start len = b.extractLsb' start len := by
  rw [← h, BitVec.extractLsb'_and, hm, BitVec.and_allOnes]

/-- A bit inside the mask is fixed by the masked word. -/
theorem getLsbD_eq_of_and_eq {w m b : Word32} (h : w &&& m = b) (i : Nat) (hm : m.getLsbD i = true) :
    w.getLsbD i = b.getLsbD i := by
  rw [← h, BitVec.getLsbD_and, hm, Bool.and_true]

/-- The row of the opcode map that a word which decodes matches (30_encoding.md R93, R94). -/
theorem decode_eq_ok_cases {w : Word32} {i : Instr} (h : decode w = .ok i) :
    (w &&& 0xFFFFFFFF = 0 ∧ i = .nop)
    ∨ (w &&& 0xFFFF00FF = 1 ∧ i = .siphash (fieldRot w))
    ∨ (w &&& 0xFFFF00EF = 2 ∧ i = .sipblock (fieldRot w) (fieldXa w))
    ∨ (w &&& 0xFFFFFF9F = 3 ∧ i = .sipnode (fieldUorv w) (fieldSh w))
    ∨ (w &&& 0xFFFFFF7F = 4 ∧ i = .seed (fieldNe w)) := by
  rw [decode_eq] at h
  split at h
  next hrow => exact .inl ⟨hrow, (Except.ok.inj h).symm⟩
  split at h
  next hrow => exact .inr (.inl ⟨hrow, (Except.ok.inj h).symm⟩)
  split at h
  next hrow => exact .inr (.inr (.inl ⟨hrow, (Except.ok.inj h).symm⟩))
  split at h
  next hrow => exact .inr (.inr (.inr (.inl ⟨hrow, (Except.ok.inj h).symm⟩)))
  split at h
  next hrow => exact .inr (.inr (.inr (.inr ⟨hrow, (Except.ok.inj h).symm⟩)))
  cases h

/-- No bit of a word that decodes is dropped (30_encoding.md R93, R94): each field is fixed by the mask of the row, or read
into the command. -/
theorem encode_of_decode_eq_ok {w : Word32} {i : Instr} (h : decode w = .ok i) : encode i = w := by
  rcases decode_eq_ok_cases h with ⟨hrow, rfl⟩ | ⟨hrow, rfl⟩ | ⟨hrow, rfl⟩ | ⟨hrow, rfl⟩ | ⟨hrow, rfl⟩
  all_goals
    have field := extractLsb'_eq_of_and_eq hrow
    have bit := getLsbD_eq_of_and_eq hrow
    have hw := assembleFields_of_fields w (field 16 16 rfl)
  · rwa [show fieldOp w = 0 from field 0 4 rfl, show fieldRot w = 0 from field 8 8 rfl,
      show fieldXa w = false from bit 4 rfl, show fieldUorv w = false from bit 5 rfl,
      show fieldSh w = false from bit 6 rfl, show fieldNe w = false from bit 7 rfl] at hw
  · rwa [show fieldOp w = 1 from field 0 4 rfl, show fieldXa w = false from bit 4 rfl,
      show fieldUorv w = false from bit 5 rfl, show fieldSh w = false from bit 6 rfl,
      show fieldNe w = false from bit 7 rfl] at hw
  · rwa [show fieldOp w = 2 from field 0 4 rfl, show fieldUorv w = false from bit 5 rfl,
      show fieldSh w = false from bit 6 rfl, show fieldNe w = false from bit 7 rfl] at hw
  · rwa [show fieldOp w = 3 from field 0 4 rfl, show fieldRot w = 0 from field 8 8 rfl,
      show fieldXa w = false from bit 4 rfl, show fieldNe w = false from bit 7 rfl] at hw
  · rwa [show fieldOp w = 4 from field 0 4 rfl, show fieldRot w = 0 from field 8 8 rfl,
      show fieldXa w = false from bit 4 rfl, show fieldUorv w = false from bit 5 rfl,
      show fieldSh w = false from bit 6 rfl] at hw

end Sys2Proof
end

section
/-! The bus: which offsets the map leaves out, what each kind of access is answered, and which locations a busy core locks
(spec/10_state.md R22; 20_memory.md R64, R69, R71). -/

namespace Sys2Proof.Machine

/-! ### The offsets with no location -/

/-- The registers fill the words below 0x0A0 but the reserved ones (10_state.md R22). -/
theorem lookup_registerMap_eq_none_iff {n : Nat} (hn : n % 4 = 0) :
    registerMap.lookup n = none
      ↔ (0x014 ≤ n ∧ n ≤ 0x01C) ∨ n = 0x04C ∨ (0x068 ≤ n ∧ n ≤ 0x07C) ∨ 0x0A0 ≤ n := by
  rw [List.lookup_eq_none_iff]
  simp only [registerMap, List.forall_mem_cons, List.not_mem_nil, bne_iff_ne, false_implies,
    implies_true, and_true]
  omega

/-- An offset has no location exactly if it is misaligned or reserved (10_state.md R22; 20_memory.md R64). -/
theorem locate_eq_none_iff (b : Build) (off : BitVec 13) :
    locate b off = none ↔ off.toNat % 4 ≠ 0 ∨ reservedOffset b off.toNat := by
  obtain ⟨hsize, -, -⟩ := hbufSize_bounds b
  unfold locate reservedOffset hbufBase
  split
  next hmis => exact iff_of_true rfl (.inl hmis)
  next halign =>
    have hmod : off.toNat % 4 = 0 := not_not.1 halign
    split
    next hreg =>
      rw [lookup_registerMap_eq_none_iff hmod]
      omega
    next hbuf =>
      split
      next hin => exact iff_of_false nofun (by omega)
      next hout => exact iff_of_true rfl (by omega)

/-- The accesses that get a bus error, as the bus tells them (20_memory.md R64). -/
theorem badAccess_iff (b : Build) (a : Access) : badAccess b a ↔ a.size ≠ .word ∨ locate b a.offset = none := by
  rw [locate_eq_none_iff, badAccess]

/-! ### Acceptance -/

/-- What every acceptance of a CMD write leaves: CMD holds the word written, WERR and the bus answer stay
(40_commands.md R111; 10_state.md R25, R26). -/
theorem acceptCommand_idle {s : State} (w : Word32) (hp : s.phase = .idle) :
    ∃ t, acceptCommand w s = .next t ∧ t.cmd = w ∧ t.werr = s.werr ∧ t.response = s.response := by
  rcases acceptCommand_cases w s with ⟨e, -, ha⟩ | ⟨i, hd, ha⟩
  · exact ⟨_, ha, rfl, rfl, rfl⟩
  · refine ⟨_, ha.trans (exec_idle i s hp), ?_⟩
    obtain rfl := encode_of_decode_eq_ok hd
    cases i with
    | nop => exact ⟨rfl, rfl, rfl⟩
    | siphash rot => dsimp only; split <;> exact ⟨rfl, rfl, rfl⟩
    | sipblock rot xa => dsimp only; split <;> exact ⟨rfl, rfl, rfl⟩
    | sipnode uorv sh => exact ⟨rfl, rfl, rfl⟩
    | seed ne => dsimp only; split <;> exact ⟨rfl, rfl, rfl⟩

/-! ### Writes to a location -/

/-- The bus answer is not a location: no write changes it, not even one that resets the core (log entry 7). -/
theorem State.writeLoc_response (s : State) (l : Loc) (v : Word32) : (s.writeLoc l v).response = s.response := by
  cases l with
  | ctrl =>
    change (s.writeCtrl v).response = s.response
    cases hv : v.getLsbD 1 with
    | true => rw [s.writeCtrl_of_srst hv, State.coreReset_response]
    | false => rw [s.writeCtrl_of_not_srst hv]
  | _ => rfl

theorem Loc.busyLocked_iff (l : Loc) :
    l.busyLocked = true ↔ l = .cmd ∨ (∃ j h, l = .key j h) ∨ (∃ h, l = .nonce h) ∨ l = .edgeBits ∨ l = .hlen
      ∨ l = .hnonce ∨ ∃ j, l = .hbuf j := by
  cases l <;> simp [Loc.busyLocked]

theorem Loc.readOnly_iff (l : Loc) :
    l.readOnly = true ↔ l = .id ∨ l = .caps ∨ (∃ h, l = .edgeMask h) ∨ (∃ h, l = .out h) ∨ ∃ w, l = .digest w := by
  cases l <;> simp [Loc.readOnly]

/-- No read-only location is locked while BUSY (10_state.md R22). -/
theorem Loc.busyLocked_of_readOnly {l : Loc} (h : l.readOnly = true) : l.busyLocked = false := by
  rcases l.readOnly_iff.1 h with rfl | rfl | ⟨h, rfl⟩ | ⟨h, rfl⟩ | ⟨w, rfl⟩ <;> rfl

theorem State.writeLoc_of_readOnly (s : State) {l : Loc} (v : Word32) (h : l.readOnly = true) :
    s.writeLoc l v = s := by
  rcases l.readOnly_iff.1 h with rfl | rfl | ⟨h, rfl⟩ | ⟨h, rfl⟩ | ⟨w, rfl⟩ <;> rfl

/-- Every write to a location of the map answers OKAY: dropped, accepted as a command, or performed (20_memory.md R64,
R71). -/
theorem hostWrite_answers_okay (off : BitVec 13) (l : Loc) (v : Word32) (s : State) :
    ∃ t, hostWrite off l v s = .next t ∧ t.response = some ⟨.okay, 0⟩ := by
  rcases hostWrite_cases off l v s with ⟨-, -, hw⟩ | ⟨hp, -, hw⟩ | ⟨-, -, hw⟩
  · exact ⟨_, hw, rfl⟩
  · obtain ⟨t, ha, -, -, hr⟩ := acceptCommand_idle (s := s.respondOkay 0) v hp
    exact ⟨t, hw.trans ha, hr⟩
  · exact ⟨_, hw, State.writeLoc_response _ l v⟩

end Sys2Proof.Machine
end

section
/-! The obligations about the bus: bad accesses and dropped writes (spec/20_memory.md R64, R71). -/

namespace Sys2Proof.Proofs

open Sys2Proof.Machine

/-- Settles O36: a bad access is one that the map gives no location, or not one word wide, and every other access is a read
or a write of a location, each of which answers OKAY. -/
theorem badAccessesGetABusError : Obligations.BadAccessesGetABusError := by
  intro s a rest he
  rw [badAccess_iff]
  refine ⟨fun hbad => step_eq_next_iff.2 (.busError rest a he hbad), fun hgood => ?_⟩
  rw [step_host he]
  rcases hostAccess_cases a (s.beginStep rest) with ⟨hbad, -⟩ | ⟨off, l, -, -, ha⟩ | ⟨off, v, l, -, -, ha⟩
  · exact absurd hbad hgood
  · exact ⟨_, _, ha, rfl⟩
  · obtain ⟨t, hw, hr⟩ := hostWrite_answers_okay off l v (s.beginStep rest)
    exact ⟨t, 0, ha.trans hw, hr⟩

/-- Settles O37: the step is the write of the location, and the clauses are the three things such a write can be: dropped,
performed (which a read-only location ignores), or the acceptance of a command. -/
theorem busyLockedWritesAreDropped : Obligations.BusyLockedWritesAreDropped := by
  intro s rest off v l he hl
  rw [step_write he hl, ← Loc.busyLocked_iff, ← Loc.readOnly_iff]
  refine ⟨fun snap hp hlock => ?dropped, fun hro => ?ignored, fun hw => ?performed, fun hp hcmd => ?accepted⟩
  case dropped =>
    have hbusy : (s.beginStep rest).phase.isBusy = true := by simp [hp]
    exact hostWrite_of_busyLocked off v hbusy hlock
  case ignored =>
    have hne : l ≠ .cmd := by rintro rfl; cases hro
    exact (hostWrite_of_writable off v hne (.inr (Loc.busyLocked_of_readOnly hro))).trans
      (congrArg Host.Outcome.next (State.writeLoc_of_readOnly _ v hro))
  case performed =>
    rcases hw with rfl | rfl | ⟨hp, hne⟩
    · exact hostWrite_of_writable off v nofun (.inr rfl)
    · exact hostWrite_of_writable off v nofun (.inr rfl)
    · exact hostWrite_of_writable off v hne (.inl hp)
  case accepted =>
    subst hcmd
    rw [hostWrite_cmd (s := s.beginStep rest) off v hp]
    exact acceptCommand_idle (s := (s.beginStep rest).respondOkay 0) v hp

end Sys2Proof.Proofs
end

section
/-! The legal command words are the words of the commands, and each decodes to its command: the words that decoding rejects
are those that 30_encoding.md R98 lists (spec/30_encoding.md R91 to R94, R98; 60_exceptions.md R223). -/

namespace Sys2Proof

/-! ### The word of a command decodes to the command -/

/-- Masking an assembled word masks its fields; RSV is 0 under every mask (30_encoding.md R91). -/
theorem assembleFields_and (op rot xa uorv sh ne) (rsv : BitVec 16) (mrot : BitVec 8) (mne msh muorv mxa : Bool)
    (mop : BitVec 4) :
    assembleFields op rot xa uorv sh ne
        &&& rsv ++ mrot ++ BitVec.ofBool mne ++ BitVec.ofBool msh ++ BitVec.ofBool muorv ++ BitVec.ofBool mxa ++ mop
      = assembleFields (op &&& mop) (rot &&& mrot) (xa && mxa) (uorv && muorv) (sh && msh) (ne && mne) := by
  refine BitVec.and_append.trans ?_
  simp only [BitVec.and_append, BitVec.ofBool_and_ofBool, BitVec.ofNat_eq_ofNat, BitVec.zero_and]
  rfl

/-- A row whose opcode is another one does not match: every row fixes the whole field OP (30_encoding.md R93). -/
theorem and_ne_of_fieldOp_ne {w m b : Word32} (hm : fieldOp m = BitVec.allOnes 4) (h : fieldOp w ≠ fieldOp b) :
    w &&& m ≠ b :=
  fun hrow => h (extractLsb'_eq_of_and_eq hrow 0 4 hm)

/-! The word of each command matches its row of the opcode map (30_encoding.md R93). -/

theorem encode_nop_and : encode .nop &&& 0xFFFFFFFF = 0 := rfl

theorem encode_siphash_and (rot : BitVec 8) : encode (.siphash rot) &&& 0xFFFF00FF = 1 :=
  (assembleFields_and 1 rot false false false false 0xFFFF 0#8 true true true true 0xF).trans
    (by rw [BitVec.and_zero]; rfl)

theorem encode_sipblock_and (rot : BitVec 8) (xa : Bool) : encode (.sipblock rot xa) &&& 0xFFFF00EF = 2 :=
  (assembleFields_and 2 rot xa false false false 0xFFFF 0#8 true true true false 0xF).trans
    (by rw [BitVec.and_zero, Bool.and_false]; rfl)

theorem encode_sipnode_and (uorv sh : Bool) : encode (.sipnode uorv sh) &&& 0xFFFFFF9F = 3 :=
  (assembleFields_and 3 0 false uorv sh false 0xFFFF 0xFF true false false true 0xF).trans
    (by rw [Bool.and_false, Bool.and_false]; rfl)

theorem encode_seed_and (ne : Bool) : encode (.seed ne) &&& 0xFFFFFF7F = 4 :=
  (assembleFields_and 4 0 false false false ne 0xFFFF 0xFF false true true true 0xF).trans
    (by rw [Bool.and_false]; rfl)

/-- The opcode of each command (30_encoding.md R92). -/
theorem fieldOp_encode (i : Instr) :
    fieldOp (encode i)
      = match i with
        | .nop => 0
        | .siphash _ => 1
        | .sipblock _ _ => 2
        | .sipnode _ _ => 3
        | .seed _ => 4 := by
  cases i <;> exact fieldOp_assembleFields ..

/-- A command's word matches its own row of the opcode map and no row before it (30_encoding.md R93, R94). -/
theorem decode_encode (i : Instr) : decode (encode i) = .ok i := by
  have skip {m b : Word32} := and_ne_of_fieldOp_ne (w := encode i) (m := m) (b := b)
  rw [fieldOp_encode] at skip
  rw [decode_eq]
  cases i with
  | nop => rw [if_pos encode_nop_and]
  | siphash rot =>
    dsimp only at skip
    rw [if_neg (skip rfl (by decide)), if_pos (encode_siphash_and rot)]
    simp [encode]
  | sipblock rot xa =>
    dsimp only at skip
    rw [if_neg (skip rfl (by decide)), if_neg (skip rfl (by decide)), if_pos (encode_sipblock_and rot xa)]
    simp [encode]
  | sipnode uorv sh =>
    dsimp only at skip
    rw [if_neg (skip rfl (by decide)), if_neg (skip rfl (by decide)), if_neg (skip rfl (by decide)),
      if_pos (encode_sipnode_and uorv sh)]
    simp [encode]
  | seed ne =>
    dsimp only at skip
    rw [if_neg (skip rfl (by decide)), if_neg (skip rfl (by decide)), if_neg (skip rfl (by decide)),
      if_neg (skip rfl (by decide)), if_pos (encode_seed_and ne)]
    simp [encode]

/-! ### The illegal words -/

/-- A field inside bits that are 0 is 0. -/
theorem extractLsb'_eq_zero_of_within {w : Word32} {start len : Nat} (h : w.extractLsb' start len = 0)
    (start' len' : Nat) (hin : start ≤ start' ∧ start' + len' ≤ start + len) : w.extractLsb' start' len' = 0 := by
  have hsub : w.extractLsb' start' len' = (w.extractLsb' start len).extractLsb' (start' - start) len' := by
    apply BitVec.eq_of_getLsbD_eq
    intro i hi
    have hlen : start' - start + i < len := by omega
    have hpos : start + (start' - start + i) = start' + i := by omega
    simp [hi, hlen, hpos]
  rw [hsub, h]
  exact BitVec.extractLsb'_zero

/-- A bit inside bits that are 0 is 0. -/
theorem getLsbD_eq_false_of_within {w : Word32} {start len : Nat} (h : w.extractLsb' start len = 0) (i : Nat)
    (hin : start ≤ i ∧ i + 1 ≤ start + len) : w.getLsbD i = false := by
  have hbit := congrArg (BitVec.getLsbD · 0) (extractLsb'_eq_zero_of_within h i 1 hin)
  simpa using hbit

end Sys2Proof

namespace Sys2Proof.Machine

/-- A word that matches a row of the opcode map is legal: the row fixes OP below 5, RSV and every field that its opcode does
not use to 0 (30_encoding.md R93, R98). -/
theorem not_illegalWord_of_decode_eq_ok {w : Word32} {i : Instr} (h : decode w = .ok i) : ¬ illegalWord w := by
  rcases decode_eq_ok_cases h with ⟨hrow, -⟩ | ⟨hrow, -⟩ | ⟨hrow, -⟩ | ⟨hrow, -⟩ | ⟨hrow, -⟩
  all_goals
    have field := extractLsb'_eq_of_and_eq hrow
    have bit := getLsbD_eq_of_and_eq hrow
    have hop : fieldOp w = _ := field 0 4 rfl
    have hrsv : fieldRsv w = 0 := field 16 16 rfl
  · simp [illegalWord, unusedFieldSet, hop, hrsv, field 4 12 rfl]
  · simp [illegalWord, unusedFieldSet, hop, hrsv, field 4 4 rfl]
  · simp [illegalWord, unusedFieldSet, hop, hrsv, field 5 3 rfl]
  · simpa [illegalWord, unusedFieldSet, hop, hrsv, field 8 8 rfl] using And.intro (bit 7 rfl) (bit 4 rfl)
  · simp [illegalWord, unusedFieldSet, hop, hrsv, field 8 8 rfl, field 4 3 rfl]

theorem fieldOp_cases {w : Word32} (h : (fieldOp w).toNat < 5) :
    fieldOp w = 0 ∨ fieldOp w = 1 ∨ fieldOp w = 2 ∨ fieldOp w = 3 ∨ fieldOp w = 4 := by
  generalize fieldOp w = op at h ⊢
  revert op
  decide

/-- A legal word is the word of a command: its opcode names the command and the fields it uses are the operands
(30_encoding.md R93, R98). -/
theorem exists_encode_eq_of_not_illegalWord {w : Word32} (h : ¬ illegalWord w) : ∃ i, encode i = w := by
  obtain ⟨hop, hrsv, hunused⟩ : (fieldOp w).toNat < 5 ∧ fieldRsv w = 0 ∧ ¬ unusedFieldSet w := by
    simpa [illegalWord] using h
  have hw := assembleFields_of_fields w hrsv
  rcases fieldOp_cases hop with hop | hop | hop | hop | hop
  · have hz : w.extractLsb' 4 12 = 0 := by simpa [unusedFieldSet, hop] using hunused
    have bit := getLsbD_eq_false_of_within hz
    rw [hop, show fieldRot w = 0 from extractLsb'_eq_zero_of_within hz 8 8 (by decide),
      show fieldXa w = false from bit 4 (by decide), show fieldUorv w = false from bit 5 (by decide),
      show fieldSh w = false from bit 6 (by decide), show fieldNe w = false from bit 7 (by decide)] at hw
    exact ⟨.nop, hw⟩
  · have hz : w.extractLsb' 4 4 = 0 := by simpa [unusedFieldSet, hop] using hunused
    have bit := getLsbD_eq_false_of_within hz
    rw [hop, show fieldXa w = false from bit 4 (by decide), show fieldUorv w = false from bit 5 (by decide),
      show fieldSh w = false from bit 6 (by decide), show fieldNe w = false from bit 7 (by decide)] at hw
    exact ⟨.siphash (fieldRot w), hw⟩
  · have hz : w.extractLsb' 5 3 = 0 := by simpa [unusedFieldSet, hop] using hunused
    have bit := getLsbD_eq_false_of_within hz
    rw [hop, show fieldUorv w = false from bit 5 (by decide),
      show fieldSh w = false from bit 6 (by decide), show fieldNe w = false from bit 7 (by decide)] at hw
    exact ⟨.sipblock (fieldRot w) (fieldXa w), hw⟩
  · obtain ⟨hrot, hne, hxa⟩ : fieldRot w = 0 ∧ fieldNe w = false ∧ fieldXa w = false := by
      simpa [unusedFieldSet, hop, fieldRot, fieldNe, fieldXa] using hunused
    rw [hop, hrot, hne, hxa] at hw
    exact ⟨.sipnode (fieldUorv w) (fieldSh w), hw⟩
  · obtain ⟨hrot, hz⟩ : fieldRot w = 0 ∧ w.extractLsb' 4 3 = 0 := by
      simpa [unusedFieldSet, hop, fieldRot] using hunused
    have bit := getLsbD_eq_false_of_within hz
    rw [hop, hrot, show fieldXa w = false from bit 4 (by decide), show fieldUorv w = false from bit 5 (by decide),
      show fieldSh w = false from bit 6 (by decide)] at hw
    exact ⟨.seed (fieldNe w), hw⟩

/-- Decoding rejects exactly the illegal words (30_encoding.md R94, R98). -/
theorem illegalWord_iff_decode_eq_error (w : Word32) : illegalWord w ↔ ∃ e, decode w = .error e := by
  cases hd : decode w with
  | ok i => exact iff_of_false (not_illegalWord_of_decode_eq_ok hd) nofun
  | error e =>
    refine iff_of_true (not_not.1 fun hlegal => ?_) ⟨e, rfl⟩
    obtain ⟨i, rfl⟩ := exists_encode_eq_of_not_illegalWord hlegal
    cases hd.symm.trans (decode_encode i)

end Sys2Proof.Machine
end

section
/-! The assembler: the word of a command as a number made of its fields, and what each mnemonic asks of its operands
(spec/30_encoding.md R91, R101). -/

namespace Sys2Proof

/-- An assembled word as shifted fields (30_encoding.md R91). -/
theorem assembleFields_eq_or (op rot xa uorv sh ne) :
    assembleFields op rot xa uorv sh ne
      = rot.setWidth 32 <<< 8 ||| (BitVec.ofBool ne).setWidth 32 <<< 7 ||| (BitVec.ofBool sh).setWidth 32 <<< 6
        ||| (BitVec.ofBool uorv).setWidth 32 <<< 5 ||| (BitVec.ofBool xa).setWidth 32 <<< 4 ||| op.setWidth 32 := by
  rw [← BitVec.setWidth_eq (assembleFields op rot xa uorv sh ne)]
  simp only [assembleFields, BitVec.setWidth_append_eq_shiftLeft_setWidth_or, BitVec.shiftLeft_or_distrib,
    ← BitVec.shiftLeft_add]
  simp

/-! ### The word of each command, its operands as numbers -/

theorem setWidth_ofBool_eq_ofNat {x : Nat} (hx : x < 2) :
    (BitVec.ofBool (x == 1)).setWidth 32 = BitVec.ofNat 32 x := by
  interval_cases x <;> rfl

theorem setWidth_rot_eq_ofNat {r : Nat} (hr : r < 256) : (BitVec.ofNat 8 r).setWidth 32 = BitVec.ofNat 32 r :=
  BitVec.setWidth_ofNat_of_le_of_lt (by decide) hr

theorem encode_siphash_eq_or {r : Nat} (hr : r < 256) :
    encode (.siphash (BitVec.ofNat 8 r)) = BitVec.ofNat 32 r <<< 8 ||| 1 := by
  simp [encode, assembleFields_eq_or, setWidth_rot_eq_ofNat hr]

theorem encode_sipblock_eq_or {r x : Nat} (hr : r < 256) (hx : x < 2) :
    encode (.sipblock (BitVec.ofNat 8 r) (x == 1)) = BitVec.ofNat 32 r <<< 8 ||| BitVec.ofNat 32 x <<< 4 ||| 2 := by
  simp [encode, assembleFields_eq_or, setWidth_rot_eq_ofNat hr, setWidth_ofBool_eq_ofNat hx]

theorem encode_sipnode_eq_or {u h : Nat} (hu : u < 2) (hh : h < 2) :
    encode (.sipnode (u == 1) (h == 1)) = BitVec.ofNat 32 h <<< 6 ||| BitVec.ofNat 32 u <<< 5 ||| 3 := by
  simp [encode, assembleFields_eq_or, setWidth_ofBool_eq_ofNat hu, setWidth_ofBool_eq_ofNat hh]

theorem encode_seed_eq_or {n : Nat} (hn : n < 2) : encode (.seed (n == 1)) = BitVec.ofNat 32 n <<< 7 ||| 4 := by
  simp [encode, assembleFields_eq_or, setWidth_ofBool_eq_ofNat hn]

end Sys2Proof

namespace Sys2Proof.Machine

/-! ### Operands -/

section
variable {ops : List (String × Nat)} {name : String} {v : Nat}

/-- A one-bit operand that is absent is 0 (30_encoding.md R101). -/
theorem asmBit_of_absent (h : ops.lookup name = none) : asmBit ops name = some false := by
  simp [asmBit, asmOperand, h]

theorem asmBit_of_lt_two (h : ops.lookup name = some v) (hv : v < 2) : asmBit ops name = some (v == 1) := by
  interval_cases v <;> simp [asmBit, asmOperand, h]

theorem asmBit_of_two_le (h : ops.lookup name = some v) (hv : 2 ≤ v) : asmBit ops name = none := by
  obtain ⟨k, rfl⟩ := Nat.exists_eq_add_of_le' hv
  simp [asmBit, asmOperand, h]

/-- `rot` has no default (30_encoding.md R101). -/
theorem asmRot_of_absent (h : ops.lookup "rot" = none) : asmRot ops = none := by
  simp [asmRot, asmOperand, h]

theorem asmRot_of_lt (h : ops.lookup "rot" = some v) (hv : v < 256) : asmRot ops = some (BitVec.ofNat 8 v) := by
  simp [asmRot, asmOperand, h, hv]

end

/-! ### Mnemonics -/

theorem assemble_siphash (ops : List (String × Nat)) :
    assemble "SIPHASH" ops
      = if asmOnly ops ["rot"] then (asmRot ops).map fun r => encode (.siphash r) else none := by
  cases ho : asmOnly ops ["rot"] with
  | false => simp [assemble, ho]
  | true => cases hr : asmRot ops <;> simp [assemble, ho, hr]

theorem assemble_sipblock (ops : List (String × Nat)) :
    assemble "SIPBLOCK" ops
      = if asmOnly ops ["rot", "xa"] then
          (asmRot ops).bind fun r => (asmBit ops "xa").map fun x => encode (.sipblock r x)
        else none := by
  cases ho : asmOnly ops ["rot", "xa"] with
  | false => simp [assemble, ho]
  | true =>
    cases hr : asmRot ops with
    | none => simp [assemble, hr]
    | some r => cases hx : asmBit ops "xa" <;> simp [assemble, ho, hr, hx]

theorem assemble_sipnode (ops : List (String × Nat)) :
    assemble "SIPNODE" ops
      = if asmOnly ops ["uorv", "sh"] then
          (asmBit ops "uorv").bind fun u => (asmBit ops "sh").map fun h => encode (.sipnode u h)
        else none := by
  cases ho : asmOnly ops ["uorv", "sh"] with
  | false => simp [assemble, ho]
  | true =>
    cases hu : asmBit ops "uorv" with
    | none => simp [assemble, hu]
    | some u => cases hh : asmBit ops "sh" <;> simp [assemble, ho, hu, hh]

theorem assemble_seed (ops : List (String × Nat)) :
    assemble "SEED" ops = if asmOnly ops ["ne"] then (asmBit ops "ne").map fun n => encode (.seed n) else none := by
  cases ho : asmOnly ops ["ne"] with
  | false => simp [assemble, ho]
  | true => cases hn : asmBit ops "ne" <;> simp [assemble, ho, hn]

/-! ### The word of a line that assembles -/

section
variable {ops : List (String × Nat)} {r x u h n : Nat}

theorem assemble_siphash_eq_some (ho : asmOnly ops ["rot"] = true) (hrot : asmRot ops = some (BitVec.ofNat 8 r))
    (hr : r < 256) : assemble "SIPHASH" ops = some (BitVec.ofNat 32 r <<< 8 ||| 1) := by
  simp only [assemble_siphash, ho, hrot, if_true, Option.map_some, encode_siphash_eq_or hr]

theorem assemble_sipblock_eq_some (ho : asmOnly ops ["rot", "xa"] = true)
    (hrot : asmRot ops = some (BitVec.ofNat 8 r)) (hxa : asmBit ops "xa" = some (x == 1)) (hr : r < 256) (hx : x < 2) :
    assemble "SIPBLOCK" ops = some (BitVec.ofNat 32 r <<< 8 ||| BitVec.ofNat 32 x <<< 4 ||| 2) := by
  simp only [assemble_sipblock, ho, hrot, hxa, if_true, Option.bind_some, Option.map_some, encode_sipblock_eq_or hr hx]

theorem assemble_sipnode_eq_some (ho : asmOnly ops ["uorv", "sh"] = true) (huorv : asmBit ops "uorv" = some (u == 1))
    (hsh : asmBit ops "sh" = some (h == 1)) (hu : u < 2) (hh : h < 2) :
    assemble "SIPNODE" ops = some (BitVec.ofNat 32 h <<< 6 ||| BitVec.ofNat 32 u <<< 5 ||| 3) := by
  simp only [assemble_sipnode, ho, huorv, hsh, if_true, Option.bind_some, Option.map_some, encode_sipnode_eq_or hu hh]

theorem assemble_seed_eq_some (ho : asmOnly ops ["ne"] = true) (hne : asmBit ops "ne" = some (n == 1)) (hn : n < 2) :
    assemble "SEED" ops = some (BitVec.ofNat 32 n <<< 7 ||| 4) := by
  simp only [assemble_seed, ho, hne, if_true, Option.map_some, encode_seed_eq_or hn]

end

/-! ### Assembly errors -/

section
variable {ops : List (String × Nat)}

theorem assemble_siphash_eq_none (h : asmRot ops = none) : assemble "SIPHASH" ops = none := by
  simp [assemble_siphash, h]

theorem assemble_sipblock_eq_none (h : asmRot ops = none ∨ asmBit ops "xa" = none) :
    assemble "SIPBLOCK" ops = none := by
  rcases h with h | h <;> simp [assemble_sipblock, h]

theorem assemble_sipnode_eq_none (h : asmBit ops "uorv" = none ∨ asmBit ops "sh" = none) :
    assemble "SIPNODE" ops = none := by
  rcases h with h | h <;> simp [assemble_sipnode, h]

theorem assemble_seed_eq_none (h : asmBit ops "ne" = none) : assemble "SEED" ops = none := by
  simp [assemble_seed, h]

end

end Sys2Proof.Machine
end

section
/-! Illegal words and illegal rotations at acceptance and in flight (spec/30_encoding.md R97, R98; 40_commands.md R111). -/

namespace Sys2Proof.Machine

theorem acceptCommand_of_decode_eq_error {w : Word32} {e : DecodeError} (s : State) (h : decode w = .error e) :
    acceptCommand w s = .next ((s.accept w).raiseError .illegalCmd) := by
  simp [acceptCommand, h]

theorem rotLegal_eq_false_iff (rot : BitVec 8) : rotLegal rot = false ↔ rot.toNat = 0 ∨ 63 < rot.toNat := by
  rw [← Bool.not_eq_true, rotLegal_iff]
  omega

/-- The rotation check rejects SIPHASH and SIPBLOCK at acceptance (30_encoding.md R97). -/
theorem exec_of_rotLegal_eq_false {s : State} {rot : BitVec 8} (hp : s.phase = .idle) (h : rotLegal rot = false)
    {i : Instr} (hi : i = .siphash rot ∨ ∃ xa, i = .sipblock rot xa) :
    exec i s = .next ((s.accept (encode i)).raiseError .badRot) := by
  rw [exec_idle i s hp]
  rcases hi with rfl | ⟨xa, rfl⟩ <;> simp only [h, Bool.false_eq_true, if_false]

/-- The command in flight passed its checks (10_state.md R38; 40_commands.md R111). -/
theorem State.Inv.passesChecks_snapshot {s : State} {snap : Snapshot} (h : s.Inv) (hp : s.phase = .busy snap) :
    passesChecks s.build s.hlen snap.w = true := by
  obtain ⟨-, -, hsnap⟩ := h
  rw [State.SnapshotOk, hp] at hsnap
  obtain ⟨rfl, hpass, -⟩ := hsnap
  exact hpass

/-- A SIPHASH or SIPBLOCK that passes its checks has a legal rotation (30_encoding.md R97). -/
theorem rotLegal_of_passesChecks {b : Build} {hlen : BitVec 16} {w : Word32} {rot : BitVec 8}
    (h : passesChecks b hlen w = true) (hd : decode w = .ok (.siphash rot) ∨ ∃ xa, decode w = .ok (.sipblock rot xa)) :
    rotLegal rot = true := by
  rcases hd with hd | ⟨xa, hd⟩ <;> simpa only [passesChecks, hd] using h

end Sys2Proof.Machine
end

section
/-! The obligations about the encoding: the assembler, the worked encodings, illegal words and illegal rotations
(spec/30_encoding.md R97, R98, R101, R102). -/

namespace Sys2Proof.Proofs

open Sys2Proof.Machine

/-! ### The assembler -/

/-- Settles O9: each line's operands are read one by one, and the word of the command they make is its fields shifted into
place; an operand that cannot be read is the error of the line. -/
theorem theAssemblerEncodesCommands : Obligations.TheAssemblerEncodesCommands := by
  refine ⟨rfl, fun r hr => ?siphash, fun r x hr hx => ⟨?sipblock, ?sipblockDefault⟩,
    fun u h hu hh => ⟨?sipnode, ?sipnodeUorv, ?sipnodeSh, ?sipnodeDefault⟩, fun n hn => ⟨?seed, rfl⟩, fun w hw => ?word,
    fun b hb => ⟨fun r => ?badXa, ?badUorv, ?badSh, ?badNe⟩, assemble_siphash_eq_none (asmRot_of_absent rfl),
    fun x => assemble_sipblock_eq_none (.inl (asmRot_of_absent rfl))⟩
  case siphash => exact assemble_siphash_eq_some rfl (asmRot_of_lt rfl hr) hr
  case sipblock => exact assemble_sipblock_eq_some rfl (asmRot_of_lt rfl hr) (asmBit_of_lt_two rfl hx) hr hx
  case sipblockDefault =>
    simpa using assemble_sipblock_eq_some (x := 0) rfl (asmRot_of_lt rfl hr) (asmBit_of_absent rfl) hr (by decide)
  case sipnode => exact assemble_sipnode_eq_some rfl (asmBit_of_lt_two rfl hu) (asmBit_of_lt_two rfl hh) hu hh
  case sipnodeUorv =>
    simpa using assemble_sipnode_eq_some (h := 0) rfl (asmBit_of_lt_two rfl hu) (asmBit_of_absent rfl) hu (by decide)
  case sipnodeSh =>
    simpa using assemble_sipnode_eq_some (u := 0) rfl (asmBit_of_absent rfl) (asmBit_of_lt_two rfl hh) (by decide) hh
  case sipnodeDefault => rfl
  case seed => exact assemble_seed_eq_some rfl (asmBit_of_lt_two rfl hn) hn
  case word => simpa [assemble] using hw
  case badXa => exact assemble_sipblock_eq_none (.inr (asmBit_of_two_le rfl hb))
  case badUorv => exact assemble_sipnode_eq_none (.inl (asmBit_of_two_le rfl hb))
  case badSh => exact assemble_sipnode_eq_none (.inr (asmBit_of_two_le rfl hb))
  case badNe => exact assemble_seed_eq_none (asmBit_of_two_le rfl hb)

/-! ### The worked encodings -/

theorem encode_and_decode_of_encode {i : Instr} {w : Word32} (h : encode i = w) : encode i = w ∧ decode w = .ok i :=
  ⟨h, h ▸ decode_encode i⟩

/-- Settles O10: each listed word is computed from its command, and decodes to it because every command's word does. -/
theorem workedEncodings : Obligations.WorkedEncodings := by
  refine ⟨?_, ?_, ?_, ?_, ?_, ?_, ?_, ?_, ?_, ?_, ?_, ?_⟩ <;> exact encode_and_decode_of_encode rfl

/-! ### Illegal words and rotations -/

/-- Settles O11: the words that decoding rejects are the illegal ones, and the acceptance of such a word is an
error entry. -/
theorem illegalWordsCompleteWithIllegalCmd : Obligations.IllegalWordsCompleteWithIllegalCmd := by
  refine ⟨illegalWord_iff_decode_eq_error, fun s rest w hp he hill => ?_⟩
  obtain ⟨e, hd⟩ := (illegalWord_iff_decode_eq_error w).1 hill
  rw [step_write_cmd hp he, acceptCommand_of_decode_eq_error _ hd]
  rfl

/-- Settles O17: outside 1..63 the rotation check fails at acceptance, and the command in flight has passed it. -/
theorem badRotationIsRejected : Obligations.BadRotationIsRejected := by
  refine ⟨fun s rot xa hp hrot => ?_, fun s snap rot hinv hp hd => ?_⟩
  · have hbad := (rotLegal_eq_false_iff rot).2 hrot
    exact ⟨exec_of_rotLegal_eq_false hp hbad (.inl rfl), exec_of_rotLegal_eq_false hp hbad (.inr ⟨xa, rfl⟩)⟩
  · exact (rotLegal_iff rot).1 (rotLegal_of_passesChecks (hinv.passesChecks_snapshot hp) hd)

end Sys2Proof.Proofs
end

section
/-! The phase of the core: the effect of each kind of step on it, and the one offset of each register that the effect turns
on (spec/40_commands.md R110; 10_state.md R22, R24). -/

namespace Sys2Proof.Machine

/-! ### The offsets of CTRL and CMD -/

/-- A location other than an HBUF word stands in the table at its offset (10_state.md R22). -/
theorem mem_registerMap_of_locate {b : Build} {off : BitVec 13} {l : Loc} (h : locate b off = some l)
    (hl : ∀ j, l ≠ .hbuf j) : (off.toNat, l) ∈ registerMap := by
  by_cases hreg : off.toNat < hbufBase
  · obtain ⟨before, after, hmap, -⟩ := List.lookup_eq_some_iff.1 (locate_register h hreg)
    simp [hmap]
  · unfold locate at h
    rw [if_neg hreg] at h
    split at h
    · cases h
    · split at h
      · exact absurd (Option.some.inj h).symm (hl _)
      · cases h

/-- CTRL has one offset (10_state.md R22). -/
theorem locate_eq_ctrl_iff {b : Build} {off : BitVec 13} : locate b off = some .ctrl ↔ off = 0x008 := by
  refine ⟨fun h => BitVec.eq_of_toNat_eq ?_, fun h => h ▸ locate_ctrl b⟩
  simpa [registerMap] using mem_registerMap_of_locate h nofun

/-- CMD has one offset (10_state.md R22). -/
theorem locate_eq_cmd_iff {b : Build} {off : BitVec 13} : locate b off = some .cmd ↔ off = 0x010 := by
  refine ⟨fun h => BitVec.eq_of_toNat_eq ?_, fun h => h ▸ locate_cmd b⟩
  simpa [registerMap] using mem_registerMap_of_locate h nofun

/-! ### The phase after each part of a step -/

/-- Only a write to CTRL with SRST = 1 can change the phase (10_state.md R24; 20_memory.md R69). -/
theorem State.writeLoc_phase_or_reset (s : State) (l : Loc) (v : Word32) :
    (s.writeLoc l v).phase = s.phase
      ∨ l = .ctrl ∧ v.getLsbD 1 = true ∧ (s.writeLoc l v).phase = .idle := by
  cases l with
  | ctrl =>
    change (s.writeCtrl v).phase = _ ∨ _ ∧ _ ∧ (s.writeCtrl v).phase = _
    cases hv : v.getLsbD 1 with
    | true => rw [s.writeCtrl_of_srst hv]; exact .inr ⟨rfl, rfl, rfl⟩
    | false => rw [s.writeCtrl_of_not_srst hv]; exact .inl rfl
  | _ => exact .inl rfl

/-- The acceptance of a compute command that passes its checks enters BUSY with the snapshot of the registers and of the
word as written (40_commands.md R111, R112). -/
theorem acceptCommand_phase_of_passesChecks {s t : State} {w : Word32} (hp : s.phase = .idle)
    (hc : passesChecks s.build s.hlen w = true) (h : acceptCommand w s = .next t) :
    t.phase = .busy (s.takeSnapshot w) := by
  obtain ⟨i, hd, ha⟩ := acceptCommand_of_passesChecks hp hc
  obtain rfl := Host.Outcome.next.inj (ha.symm.trans h)
  rw [encode_of_decode_eq_ok hd]
  rfl

/-- The acceptance of any other word leaves the core IDLE (40_commands.md R110). -/
theorem acceptCommand_phase_of_not_passesChecks {s t : State} {w : Word32} (hp : s.phase = .idle)
    (hc : passesChecks s.build s.hlen w = false) (h : acceptCommand w s = .next t) : t.phase = .idle := by
  obtain ⟨u, ha | ⟨c, ha⟩⟩ := acceptCommand_of_not_passesChecks hp hc
  · obtain rfl := Host.Outcome.next.inj (ha.symm.trans h)
    rfl
  · obtain rfl := Host.Outcome.next.inj (ha.symm.trans h)
    exact hp

/-! ### The phase after a step -/

/-- The engine's turn ends in IDLE from either phase (40_commands.md R115). -/
theorem step_engine_phase {s t : State} {rest : List Event} (he : s.EngineNext rest) (h : step s = .next t) :
    t.phase = .idle := by
  cases hp : s.phase with
  | idle =>
    obtain rfl : s.beginStep rest = t := by simpa [step_engine he, engineTurn, hp] using h
    exact hp
  | busy snap =>
    obtain ⟨i, -, hx⟩ := step_completion he hp h
    exact (exec_busy_status (s := s.beginStep rest) hp hx).1

/-- What a step can do to the phase: keep it, enter BUSY by an acceptance, or end in IDLE by the engine's turn or a reset
(40_commands.md R110). -/
theorem step_phase_cases {s t : State} (h : step s = .next t) :
    t.phase = s.phase
    ∨ (∃ rest w, s.phase = .idle ∧ s.events = .host (.write .word 0x010 w) :: rest
        ∧ passesChecks s.build s.hlen w = true ∧ t.phase = .busy (s.takeSnapshot w))
    ∨ (t.phase = .idle ∧ ((∃ rest, s.EngineNext rest) ∨ s.ResetNext)) := by
  cases stepTo_of_step h with
  | wait => exact .inl rfl
  | completion rest snap i t he => exact .inr (.inr ⟨step_engine_phase he h, .inl ⟨rest, he⟩⟩)
  | rstN rest he => exact .inr (.inr ⟨rfl, .inr ⟨_, rest, he, .inl rfl⟩⟩)
  | busError => exact .inl rfl
  | read => exact .inl rfl
  | dropped => exact .inl rfl
  | command rest off w t he hl hp hx =>
    obtain rfl := locate_eq_cmd_iff.1 hl
    cases hc : passesChecks s.build s.hlen w with
    | true =>
      have ht := acceptCommand_phase_of_passesChecks (s := (s.beginStep rest).respondOkay 0) hp hc hx
      exact .inr (.inl ⟨rest, w, hp, he, hc, ht⟩)
    | false =>
      have ht := acceptCommand_phase_of_not_passesChecks (s := (s.beginStep rest).respondOkay 0) hp hc hx
      exact .inl (ht.trans hp.symm)
  | write rest off l v he hl =>
    obtain hsame | ⟨rfl, hv, hidle⟩ := ((s.beginStep rest).respondOkay 0).writeLoc_phase_or_reset l v
    · exact .inl hsame
    · obtain rfl := locate_eq_ctrl_iff.1 hl
      exact .inr (.inr ⟨hidle, .inr ⟨_, rest, he, .inr ⟨v, rfl, hv⟩⟩⟩)

end Sys2Proof.Machine
end

section
/-! The obligation about the phase: which steps change it (spec/40_commands.md R110). -/

namespace Sys2Proof.Proofs

open Sys2Proof.Machine

/-- Settles O29: the clauses that name the step by that step's effect on the phase, and the two that ask which steps leave a
phase by the cases of what a step can do to it. -/
theorem onlyTheListedStepsChangeThePhase : Obligations.OnlyTheListedStepsChangeThePhase := by
  intro s t h
  refine ⟨fun rest w hp he => ?acceptance, fun hp ht => ?leavesIdle, fun snap hp ht => ?leavesBusy,
    fun rest he => step_engine_phase he h, fun hr => ?reset⟩
  case acceptance =>
    have ha := (step_write_cmd hp he).symm.trans h
    refine ⟨fun hc => ?_, fun hc => ?_⟩
    · exact acceptCommand_phase_of_passesChecks (s := (s.beginStep rest).respondOkay 0) hp hc ha
    · exact ⟨acceptCommand_phase_of_not_passesChecks (s := (s.beginStep rest).respondOkay 0) hp hc ha,
        (acceptCommand_done_ie_of_not_passesChecks (s := (s.beginStep rest).respondOkay 0) hp hc ha).1⟩
  case leavesIdle =>
    obtain hsame | ⟨rest, w, -, he, hc, -⟩ | ⟨hidle, -⟩ := step_phase_cases h
    · exact absurd (hsame.trans hp) ht
    · exact ⟨rest, w, he, hc⟩
    · exact absurd hidle ht
  case leavesBusy =>
    obtain hsame | ⟨rest, w, hi, -⟩ | hends := step_phase_cases h
    · exact absurd (hsame.trans hp) ht
    · cases hp.symm.trans hi
    · exact hends
  case reset =>
    obtain ⟨u, hu⟩ := step_reset hr
    obtain rfl := Host.Outcome.next.inj (hu.symm.trans h)
    rfl

end Sys2Proof.Proofs
end

section
/-! The error code that the acceptance of a CMD write leaves, one lemma per check, in the order of the checks
(spec/60_exceptions.md R221 to R224; 40_commands.md R111). -/

namespace Sys2Proof.Machine

/-! ### The command of a legal word, by its opcode -/

theorem acceptCommand_encode (i : Instr) (s : State) : acceptCommand (encode i) s = exec i s := by
  simp [acceptCommand, decode_encode]

/-- The commands with a rotation are those with opcode 1 or 2 (30_encoding.md R92, R97). -/
theorem eq_siphash_or_sipblock_of_fieldOp {i : Instr} (h : fieldOp (encode i) = 1 ∨ fieldOp (encode i) = 2) :
    i = .siphash (fieldRot (encode i)) ∨ ∃ xa, i = .sipblock (fieldRot (encode i)) xa := by
  rw [fieldOp_encode] at h
  cases i with
  | siphash rot => exact .inl (by simp [encode])
  | sipblock rot xa => exact .inr ⟨xa, by simp [encode]⟩
  | _ => simp at h

/-- The command with a header length is the one with opcode 4 (30_encoding.md R92; 44_graphparams.md R203). -/
theorem eq_seed_of_fieldOp {i : Instr} (h : fieldOp (encode i) = 4) : i = .seed (fieldNe (encode i)) := by
  rw [fieldOp_encode] at h
  cases i with
  | seed ne => simp [encode]
  | _ => simp at h

/-! ### The length check -/

theorem hlenLegal_eq_false_iff (b : Build) (hlen : BitVec 16) (ne : Bool) :
    hlenLegal b hlen ne = false ↔ b.hbufSize < hlen.toNat ∨ (ne = true ∧ hlen.toNat < 4) := by
  rw [← Bool.not_eq_true, hlenLegal_iff, not_and_or, Classical.not_imp, not_le, not_le]

/-- The length check rejects SEED at acceptance (44_graphparams.md R203). -/
theorem exec_of_hlenLegal_eq_false {s : State} {ne : Bool} (hp : s.phase = .idle)
    (h : hlenLegal s.build s.hlen ne = false) :
    exec (.seed ne) s = .next ((s.accept (encode (.seed ne))).raiseError .badHlen) := by
  simp only [exec_idle _ s hp, h, Bool.false_eq_true, if_false]

/-! ### The code of each check -/

section
variable {s t : State} {w : Word32}

/-- ILLEGAL_CMD comes before any other check of the word (60_exceptions.md R224). -/
theorem acceptCommand_errcode_of_illegalWord (h : acceptCommand w s = .next t) (hill : illegalWord w) :
    t.errcode = 1 := by
  obtain ⟨e, hd⟩ := (illegalWord_iff_decode_eq_error w).1 hill
  obtain rfl := Host.Outcome.next.inj ((acceptCommand_of_decode_eq_error s hd).symm.trans h)
  rfl

theorem acceptCommand_errcode_of_rotLegal_eq_false (hp : s.phase = .idle) (h : acceptCommand w s = .next t)
    (hlegal : ¬ illegalWord w) (hop : fieldOp w = 1 ∨ fieldOp w = 2) (hrot : rotLegal (fieldRot w) = false) :
    t.errcode = 2 := by
  obtain ⟨i, rfl⟩ := exists_encode_eq_of_not_illegalWord hlegal
  have hx := exec_of_rotLegal_eq_false hp hrot (eq_siphash_or_sipblock_of_fieldOp hop)
  rw [acceptCommand_encode, hx] at h
  obtain rfl := Host.Outcome.next.inj h
  rfl

theorem acceptCommand_errcode_of_hlenLegal_eq_false (hp : s.phase = .idle) (h : acceptCommand w s = .next t)
    (hlegal : ¬ illegalWord w) (hop : fieldOp w = 4) (hlen : hlenLegal s.build s.hlen (fieldNe w) = false) :
    t.errcode = 3 := by
  obtain ⟨i, rfl⟩ := exists_encode_eq_of_not_illegalWord hlegal
  have hx := exec_of_hlenLegal_eq_false hp hlen
  rw [← eq_seed_of_fieldOp hop] at hx
  rw [acceptCommand_encode, hx] at h
  obtain rfl := Host.Outcome.next.inj h
  rfl

/-- A command that no check rejects leaves the cleared code of its acceptance (40_commands.md R111, R113). -/
theorem acceptCommand_errcode_of_checks_pass (hp : s.phase = .idle) (h : acceptCommand w s = .next t)
    (hlegal : ¬ illegalWord w) (hrot : fieldOp w = 1 ∨ fieldOp w = 2 → rotLegal (fieldRot w) = true)
    (hlen : fieldOp w = 4 → hlenLegal s.build s.hlen (fieldNe w) = true) : t.errcode = 0 := by
  obtain ⟨i, rfl⟩ := exists_encode_eq_of_not_illegalWord hlegal
  rw [acceptCommand_encode, exec_idle i s hp] at h
  obtain rfl := Host.Outcome.next.inj h
  rw [fieldOp_encode] at hrot hlen
  cases i with
  | nop => rfl
  | siphash rot =>
    have hpass : rotLegal rot = true := by simpa [encode] using hrot
    simp [hpass]
  | sipblock rot xa =>
    have hpass : rotLegal rot = true := by simpa [encode] using hrot
    simp [hpass]
  | sipnode uorv sh => rfl
  | seed ne =>
    have hpass : hlenLegal s.build s.hlen ne = true := by simpa [encode] using hlen
    simp [hpass]

end

end Sys2Proof.Machine
end

section
/-! The obligation about the order of the checks of a CMD write (spec/60_exceptions.md R224). -/

namespace Sys2Proof.Proofs

open Sys2Proof.Machine

/-- Settles O19: while BUSY the bus drops the write before any check; while IDLE the step is the acceptance of the word, and
each clause is the code of the first check that fails. -/
theorem checksAreMadeInOrder : Obligations.ChecksAreMadeInOrder := by
  intro s rest w he
  refine ⟨fun snap hp => ?dropped, fun hp => ?accepted⟩
  case dropped =>
    have hbusy : (s.beginStep rest).phase.isBusy = true := by simp [hp]
    exact (step_write he (locate_cmd _)).trans (hostWrite_of_busyLocked _ w hbusy rfl)
  case accepted =>
    have hidle : ((s.beginStep rest).respondOkay 0).phase = .idle := hp
    obtain ⟨t, ha, hcmd, -⟩ := acceptCommand_idle w hidle
    have hbadHlen := acceptCommand_errcode_of_hlenLegal_eq_false hidle ha
    have hpass := acceptCommand_errcode_of_checks_pass hidle ha
    refine ⟨t, (step_write_cmd hp he).trans ha, hcmd, acceptCommand_errcode_of_illegalWord ha, ?_⟩
    simp only [← rotLegal_eq_false_iff, ← hlenLegal_eq_false_iff, not_and, Bool.not_eq_false]
    exact ⟨acceptCommand_errcode_of_rotLegal_eq_false hidle ha, hbadHlen, hpass⟩

end Sys2Proof.Proofs
end

section
/-! Runs step by step, and the state that each of the two resets leaves (spec/10_state.md R24, R42;
70_reset_and_hazards.md R260 to R262). -/

namespace Sys2Proof.Machine

/-! ### Runs -/

theorem runSteps_succ_of_step {s t : State} (n : Nat) (h : step s = .next t) : runSteps (n + 1) s = runSteps n t := by
  simp only [runSteps, h]

/-! ### Resets -/

/-- `rst_n` keeps the build, the inputs and the draw counter alone (70_reset_and_hazards.md R261; log entry 13). -/
theorem step_rstN_resetOf {s : State} {rest : List Event} (he : s.events = .rstN :: rest) :
    step s = .next { State.resetOf s.build with events := rest, draws := s.draws } :=
  step_rstN he

/-- A soft reset leaves what `rst_n` leaves, with the OKAY answer to the write (70_reset_and_hazards.md R262; log
entry 13). -/
theorem step_write_ctrl_of_srst {s : State} {rest : List Event} {v : Word32}
    (he : s.events = .host (.write .word 0x008 v) :: rest) (hv : v.getLsbD 1 = true) :
    step s = .next { State.resetOf s.build with
      events := rest, response := some ⟨.okay, 0⟩, draws := s.draws } :=
  (step_write_ctrl he).trans (congrArg Host.Outcome.next (State.writeCtrl_of_srst _ hv))

/-- CTRL holds IE alone: SRST reads 0 (10_state.md R24). -/
theorem State.readLoc_ctrl (s : State) : s.readLoc .ctrl = if s.ie then 1 else 0 := by
  change (0 : BitVec 31) ++ BitVec.ofBool s.ie = _
  cases s.ie <;> rfl

end Sys2Proof.Machine
end

section
/-! The obligations about the two resets (spec/70_reset_and_hazards.md R261, R262). -/

namespace Sys2Proof.Proofs

open Sys2Proof.Machine

/-- Settles O33: the step is the reset, and the CMD write that comes next finds the phase IDLE, so it is accepted. -/
theorem resetInputResetsTheCore : Obligations.ResetInputResetsTheCore := by
  intro s rest he
  have hreset := step_rstN_resetOf he
  obtain ⟨-, -, -, hstatus, -⟩ := hasResetValues_coreReset (s.beginStep rest)
  refine ⟨hreset, rfl, hstatus, fun w rest' hcmd => ?_⟩
  obtain ⟨t, ha, hw, hwerr, -⟩ :=
    acceptCommand_idle (s := ((s.beginStep rest).coreReset.beginStep rest').respondOkay 0) w rfl
  refine ⟨t, ?_, hw, hwerr⟩
  rw [runSteps_succ_of_step 1 hreset]
  exact runSteps_succ_of_step 0 ((step_write_cmd rfl hcmd).trans ha)

/-- Settles O34: a write with SRST = 1 is a soft reset, which keeps only what a second one keeps too; a write with SRST = 0
is the write of IE. -/
theorem softResetThroughCtrl : Obligations.SoftResetThroughCtrl := by
  intro s rest v
  refine ⟨step_write_ctrl_of_srst, fun v' hv hv' => ?twice, fun he hv => ?enable, s.readLoc_ctrl⟩
  case twice =>
    rw [runSteps_succ_of_step 1 (step_write_ctrl_of_srst rfl hv),
      runSteps_succ_of_step 0 (step_write_ctrl_of_srst rfl hv'),
      runSteps_succ_of_step 0 (step_write_ctrl_of_srst rfl hv)]
    rfl
  case enable =>
    exact (step_write_ctrl he).trans (congrArg Host.Outcome.next (State.writeCtrl_of_not_srst _ hv))

end Sys2Proof.Proofs
end

section
/-! The obligations that decoding and encoding are inverse to each other (spec/30_encoding.md R93, R94, R101). -/

namespace Sys2Proof.Proofs

open Sys2Proof.Machine

/-- Settles O7: the word of a command matches its own row of the opcode map and no row before it. -/
theorem decodeOfEncodeIsTheCommand : Obligations.DecodeOfEncodeIsTheCommand := decode_encode

/-- Settles O8: each field of a word that decodes is fixed by the mask of its row, or read into the command. -/
theorem encodeOfDecodeIsTheWord : Obligations.EncodeOfDecodeIsTheWord := fun _ _ => encode_of_decode_eq_ok

end Sys2Proof.Proofs
end

section
/-! What each half of a command can leave, said once: the acceptance of a word, and the completion of the command in
flight (spec/40_commands.md R111 to R115, R120). -/

namespace Sys2Proof.Machine

/-! ### Acceptance -/

/-- The checks of a command are those on its own operands (40_commands.md R111). -/
theorem passesChecks_encode (b : Build) (hlen : BitVec 16) (i : Instr) :
    passesChecks b hlen (encode i)
      = match i with
        | .nop => false
        | .siphash rot => rotLegal rot
        | .sipblock rot _ => rotLegal rot
        | .sipnode _ _ => true
        | .seed ne => hlenLegal b hlen ne := by
  rw [passesChecks, decode_encode]
  cases i <;> rfl

theorem acceptCommand_of_decode_eq_ok {w : Word32} {i : Instr} (s : State) (h : decode w = .ok i) :
    acceptCommand w s = exec i s := by
  rw [← encode_of_decode_eq_ok h, acceptCommand_encode]

/-- A compute command that passes its checks starts (40_commands.md R111). -/
theorem exec_of_passesChecks {s : State} {i : Instr} (hp : s.phase = .idle)
    (hc : passesChecks s.build s.hlen (encode i) = true) :
    exec i s = .next ((s.accept (encode i)).start (encode i)) := by
  obtain ⟨j, hd, ha⟩ := acceptCommand_of_passesChecks hp hc
  obtain rfl := Except.ok.inj ((decode_encode i).symm.trans hd)
  exact (acceptCommand_encode i s).symm.trans ha

/-- Every outcome of the acceptance half of a command: started, completed at once, or rejected with an error
(40_commands.md R111, R117; 60_exceptions.md R222). -/
theorem exec_idle_cases {s t : State} {i : Instr} (hp : s.phase = .idle) (h : exec i s = .next t) :
    (passesChecks s.build s.hlen (encode i) = true ∧ t = (s.accept (encode i)).start (encode i))
    ∨ t = (s.accept (encode i)).complete
    ∨ ∃ c, c ≠ .success ∧ t = (s.accept (encode i)).raiseError c := by
  cases hc : passesChecks s.build s.hlen (encode i) with
  | true => exact .inl ⟨rfl, Host.Outcome.next.inj (h.symm.trans (exec_of_passesChecks hp hc))⟩
  | false =>
    rw [exec_idle i s hp] at h
    obtain rfl := Host.Outcome.next.inj h
    rw [passesChecks_encode] at hc
    cases i with
    | nop => exact .inr (.inl rfl)
    | siphash rot => exact .inr (.inr ⟨.badRot, nofun, by simp [hc]⟩)
    | sipblock rot xa => exact .inr (.inr ⟨.badRot, nofun, by simp [hc]⟩)
    | sipnode uorv sh => cases hc
    | seed ne => exact .inr (.inr ⟨.badHlen, nofun, by simp [hc]⟩)

/-- Every outcome of an accepted CMD write, as a function of the word written (40_commands.md R111; 30_encoding.md
R98). -/
theorem acceptCommand_idle_cases {s t : State} {w : Word32} (hp : s.phase = .idle) (h : acceptCommand w s = .next t) :
    (passesChecks s.build s.hlen w = true ∧ t = (s.accept w).start w)
    ∨ t = (s.accept w).complete
    ∨ ∃ c, c ≠ .success ∧ t = (s.accept w).raiseError c := by
  rcases acceptCommand_cases w s with ⟨e, -, ha⟩ | ⟨i, hd, ha⟩
  · exact .inr (.inr ⟨.illegalCmd, nofun, Host.Outcome.next.inj (h.symm.trans ha)⟩)
  · obtain rfl := encode_of_decode_eq_ok hd
    exact exec_idle_cases hp (ha.symm.trans h)

/-! ### Completion -/

/-- Every outcome of the completion half of a command: NOP writes the status alone, SEED the keys and the digest
registers, every other command OUT (40_commands.md R115, R120). -/
theorem exec_busy_cases {s t : State} {snap : Snapshot} {i : Instr} (hp : s.phase = .busy snap)
    (h : exec i s = .next t) :
    (i = .nop ∧ t = s.complete)
    ∨ ((∀ ne, i ≠ .seed ne) ∧ i ≠ .nop ∧ ∃ x, t = s.completeOut x)
    ∨ ∃ ne d, i = .seed ne ∧ t = (s.noteInput (seedInput snap ne)).completeSeed d := by
  rw [exec_busy i s hp] at h
  obtain rfl := Host.Outcome.next.inj h
  cases i with
  | nop => exact .inl ⟨rfl, rfl⟩
  | seed ne => exact .inr (.inr ⟨ne, _, rfl, rfl⟩)
  | _ => exact .inr (.inl ⟨nofun, nofun, _, rfl⟩)

/-- What every completion of a command in flight leaves: the engine IDLE and the status of a success, with CMD and
WERR as they were (40_commands.md R115; 10_state.md R25). -/
structure Completion (s t : State) : Prop where
  phase : t.phase = .idle
  done : t.done = true
  err : t.err = false
  errcode : t.errcode = 0
  cmd : t.cmd = s.cmd
  werr : t.werr = s.werr
  build : t.build = s.build
  hbuf : t.hbuf = s.hbuf
  events : t.events = s.events

theorem completion_of_exec {s t : State} {snap : Snapshot} {i : Instr} (hp : s.phase = .busy snap)
    (h : exec i s = .next t) : Completion s t := by
  obtain ⟨-, rfl⟩ | ⟨-, -, x, rfl⟩ | ⟨ne, d, -, rfl⟩ := exec_busy_cases hp h <;> constructor <;> rfl

/-- The engine's turn runs the command of the snapshot (40_commands.md R115). -/
theorem step_engine_of_busy {s : State} {rest : List Event} {snap : Snapshot} {i : Instr} (he : s.EngineNext rest)
    (hp : s.phase = .busy snap) (hd : decode snap.w = .ok i) : step s = exec i (s.beginStep rest) := by
  simp [step_engine he, engineTurn, hp, hd]

/-- With a snapshot that decodes, the engine's turn completes the command in flight. -/
theorem step_completes {s : State} {rest : List Event} {snap : Snapshot} {i : Instr} (he : s.EngineNext rest)
    (hp : s.phase = .busy snap) (hd : decode snap.w = .ok i) :
    ∃ t, step s = .next t ∧ Completion (s.beginStep rest) t := by
  obtain ⟨t, ht⟩ := exec_next i (s.beginStep rest)
  exact ⟨t, (step_engine_of_busy he hp hd).trans ht, completion_of_exec (s := s.beginStep rest) hp ht⟩

end Sys2Proof.Machine
end

section
/-! The invariant: each part of a step keeps it, and no step stops from a state that has it (spec/10_state.md R37, R38;
60_exceptions.md R220, R221). -/

namespace Sys2Proof.Machine

/-! ### The parts of the invariant -/

theorem State.snapshotOk_of_idle {s : State} (h : s.phase = .idle) : s.SnapshotOk := by
  rw [State.SnapshotOk, h]
  trivial

/-- While IDLE the invariant is about HBUF and the error fields alone. -/
theorem State.inv_of_idle {s : State} (hbuf : s.HbufOk) (herr : s.ErrorFieldsOk) (h : s.phase = .idle) : s.Inv :=
  ⟨hbuf, herr, State.snapshotOk_of_idle h⟩

/-- The error fields of a status without an error (60_exceptions.md R221). -/
theorem State.errorFieldsOk_of_no_error {s : State} (herr : s.err = false) (hcode : s.errcode = 0) :
    s.ErrorFieldsOk := by
  simp [State.ErrorFieldsOk, herr, hcode]

/-- The codes of the errors are 1 to 3 (60_exceptions.md R221). -/
theorem ErrCode.code_bounds {c : ErrCode} (h : c ≠ .success) : c.code.toNat ≤ 3 ∧ c.code ≠ 0 := by
  cases c with
  | success => exact absurd rfl h
  | _ => decide

/-- A snapshot taken by a command that passed its checks decodes (log entry 9). -/
theorem decode_of_passesChecks {b : Build} {hlen : BitVec 16} {w : Word32} (h : passesChecks b hlen w = true) :
    ∃ i, decode w = .ok i := by
  cases hd : decode w with
  | ok i => exact ⟨i, rfl⟩
  | error e => simp [passesChecks, hd] at h

theorem State.Inv.decode_snapshot {s : State} {snap : Snapshot} (h : s.Inv) (hp : s.phase = .busy snap) :
    ∃ i, decode snap.w = .ok i :=
  decode_of_passesChecks (h.passesChecks_snapshot hp)

theorem State.resetOf_inv (b : Build) : (State.resetOf b).Inv :=
  State.inv_of_idle ⟨Memory.wf_nil, nofun⟩ (State.errorFieldsOk_of_no_error rfl rfl) rfl

/-! ### Each part of a step keeps the invariant -/

theorem acceptCommand_preserves_inv {s t : State} {w : Word32} (hinv : s.Inv) (hp : s.phase = .idle)
    (h : acceptCommand w s = .next t) : t.Inv := by
  obtain ⟨hbuf, -, -⟩ := hinv
  obtain ⟨hc, rfl⟩ | rfl | ⟨c, hne, rfl⟩ := acceptCommand_idle_cases hp h
  · exact ⟨hbuf, State.errorFieldsOk_of_no_error rfl rfl, rfl, hc, rfl, rfl, rfl⟩
  · exact State.inv_of_idle hbuf (State.errorFieldsOk_of_no_error rfl rfl) rfl
  · obtain ⟨hle, hnz⟩ := ErrCode.code_bounds hne
    exact State.inv_of_idle hbuf ⟨hle, fun _ => hnz⟩ hp

/-- A completion writes no byte of HBUF and leaves the status of a success (40_commands.md R115). -/
theorem completion_preserves_inv {s t : State} (hinv : s.Inv) (h : Completion s t) : t.Inv := by
  obtain ⟨hbuf, -, -⟩ := hinv
  refine State.inv_of_idle ?_ (State.errorFieldsOk_of_no_error h.err h.errcode) h.phase
  rwa [State.HbufOk, h.hbuf, h.build]

/-- A write to STATUS can only clear (10_state.md R25). -/
theorem State.writeStatus_preserves_inv {s : State} (hinv : s.Inv) (v : Word32) : (s.writeStatus v).Inv := by
  obtain ⟨hbuf, ⟨hle, herr⟩, hsnap⟩ := hinv
  refine ⟨hbuf, ⟨hle, fun h => herr (Bool.and_elim_left h)⟩, ?_⟩
  cases hp : s.phase with
  | idle => exact State.snapshotOk_of_idle hp
  | busy snap =>
    rw [State.SnapshotOk, hp] at hsnap
    obtain ⟨hs, hc, hdone, he, hcode⟩ := hsnap
    rw [State.SnapshotOk, State.writeStatus_phase, hp]
    exact ⟨hs, hc, by simp [hdone], by simp [he], hcode⟩

/-- A write of an HBUF word of the build stays inside the buffer (10_state.md R37; 20_memory.md R67). -/
theorem State.HbufOk.writeWord {s : State} (h : s.HbufOk) {j : Nat} (v : Word32) (hj : 4 * j + 4 ≤ s.build.hbufSize) :
    ({ s with hbuf := s.hbuf.writeWord j v } : State).HbufOk := by
  obtain ⟨hwf, hin⟩ := h
  refine ⟨Memory.wf_writeWord hwf j v, fun c hc => ?_⟩
  obtain ⟨-, hlt⟩ | hold := Memory.mem_writeWord hc
  · exact Nat.lt_of_lt_of_le hlt hj
  · exact hin c hold

/-- A write that the bus performs keeps the invariant: while BUSY it reaches no register that the snapshot copies
(10_state.md R38; 20_memory.md R71). -/
theorem State.writeLoc_preserves_inv {s : State} (hinv : s.Inv) {off : BitVec 13} {l : Loc} (v : Word32)
    (hl : locate s.build off = some l) (hw : s.phase = .idle ∨ l.busyLocked = false) : (s.writeLoc l v).Inv := by
  have hidle (hb : l.busyLocked = true) : s.phase = .idle := hw.resolve_right (by simp [hb])
  obtain ⟨hbuf, herr, hsnap⟩ := hinv
  cases l with
  | ctrl =>
    change (s.writeCtrl v).Inv
    cases hv : v.getLsbD 1 with
    | true => rw [s.writeCtrl_of_srst hv]; exact State.resetOf_inv s.build
    | false => rw [s.writeCtrl_of_not_srst hv]; exact ⟨hbuf, herr, hsnap⟩
  | status => exact State.writeStatus_preserves_inv ⟨hbuf, herr, hsnap⟩ v
  | key j h => exact State.inv_of_idle hbuf herr (hidle rfl)
  | nonce h => exact State.inv_of_idle hbuf herr (hidle rfl)
  | edgeBits => exact State.inv_of_idle hbuf herr (hidle rfl)
  | hlen => exact State.inv_of_idle hbuf herr (hidle rfl)
  | hnonce => exact State.inv_of_idle hbuf herr (hidle rfl)
  | hbuf j => exact State.inv_of_idle (hbuf.writeWord v (locate_hbuf hl).1) herr (hidle rfl)
  | _ => exact ⟨hbuf, herr, hsnap⟩

/-! ### Steps from a state with the invariant -/

theorem step_preserves_inv {s t : State} (hinv : s.Inv) (h : step s = .next t) : t.Inv := by
  cases stepTo_of_step h with
  | wait => exact hinv
  | completion rest snap i t he hp hd hx =>
    exact completion_preserves_inv (s := s.beginStep rest) hinv (completion_of_exec (s := s.beginStep rest) hp hx)
  | rstN => exact State.resetOf_inv s.build
  | busError => exact hinv
  | read => exact hinv
  | dropped => exact hinv
  | command rest off w t he hl hp hx =>
    exact acceptCommand_preserves_inv (s := (s.beginStep rest).respondOkay 0) hinv hp hx
  | write rest off l v he hl hne hw =>
    exact State.writeLoc_preserves_inv (s := (s.beginStep rest).respondOkay 0) hinv v hl hw

/-- A host access answers a next state, whatever the state (20_memory.md R64). -/
theorem hostAccess_next (a : Access) (s : State) : ∃ t, hostAccess a s = .next t := by
  rcases hostAccess_cases a s with ⟨-, ha⟩ | ⟨off, l, -, -, ha⟩ | ⟨off, v, l, -, -, ha⟩
  · exact ⟨_, ha⟩
  · exact ⟨_, ha⟩
  · obtain ⟨t, hw, -⟩ := hostWrite_answers_okay off l v s
    exact ⟨t, ha.trans hw⟩

/-- The engine's turn alone can stop, over a snapshot that does not decode (log entry 9). -/
theorem step_next_of_inv {s : State} (hinv : s.Inv) : ∃ t, step s = .next t := by
  rcases step_cases s with ⟨rest, he, hs⟩ | ⟨rest, -, hs⟩ | ⟨a, rest, -, hs⟩
  · cases hp : s.phase with
    | idle => exact ⟨s.beginStep rest, by simp [hs, engineTurn, hp]⟩
    | busy snap =>
      obtain ⟨i, hd⟩ := hinv.decode_snapshot hp
      obtain ⟨t, ht, -⟩ := step_completes he hp hd
      exact ⟨t, ht⟩
  · exact ⟨_, hs⟩
  · obtain ⟨t, ht⟩ := hostAccess_next a (s.beginStep rest)
    exact ⟨t, hs.trans ht⟩

end Sys2Proof.Machine
end

section
/-! The obligations about the invariant (spec/10_state.md R37, R38; 60_exceptions.md R220, R221). -/

namespace Sys2Proof.Proofs

open Sys2Proof.Machine

/-- Settles O2: after reset HBUF is empty, no error stands and the engine is IDLE. -/
theorem resetHasTheInvariant : Obligations.ResetHasTheInvariant := State.resetOf_inv

/-- Settles O3, by the kinds of step: acceptance takes the snapshot of the registers, and while BUSY the bus performs
no write to a register that the snapshot copies. -/
theorem everyStepKeepsTheInvariant : Obligations.EveryStepKeepsTheInvariant := fun _ _ => step_preserves_inv

/-- Settles O4: the one fault is over a snapshot that does not decode, and the command in flight has passed its
checks. -/
theorem theCoreNeverStops : Obligations.TheCoreNeverStops := fun _ => step_next_of_inv

end Sys2Proof.Proofs
end

section
/-! The obligations about the commands that a step runs, and what their acceptance leaves (spec/40_commands.md R111 to
R117; 44_graphparams.md R203). -/

namespace Sys2Proof.Machine

/-- SEED alone takes header bytes into the snapshot of its acceptance (40_commands.md R112; 10_state.md R38). -/
theorem exec_compute_of_not_seed {s : State} {i : Instr} (hp : s.phase = .idle) (hi : ∀ ne, i ≠ .seed ne)
    (hc : passesChecks s.build s.hlen (encode i) = true) :
    exec i s = .next { s with
      cmd := encode i, done := false, err := false, errcode := 0,
      phase := .busy ⟨encode i, s.keys, s.nonce, s.edgeBits, s.hlen, s.hnonce, []⟩ } := by
  have hword : isSeedWord (encode i) = false := by
    rw [isSeedWord_encode]
    cases i with
    | seed ne => exact absurd rfl (hi ne)
    | _ => rfl
  rw [exec_of_passesChecks hp hc]
  simp [State.start, State.accept, State.takeSnapshot, hword]

theorem takeSnapshot_encode_seed (s : State) (ne : Bool) :
    s.takeSnapshot (encode (.seed ne))
      = ⟨encode (.seed ne), s.keys, s.nonce, s.edgeBits, s.hlen, s.hnonce, s.hbuf.readBytes 0 s.hlen.toNat⟩ := by
  simp [State.takeSnapshot, isSeedWord_encode]

theorem Memory.readBytes_zero (m : Memory) (n : Nat) : m.readBytes 0 n = (List.range n).map fun k => m.read k := by
  simp [Memory.readBytes]

theorem decode_of_decodeTableWord {w : Nat} {i : Instr} (h : decodeTableWord 32 w = some i) :
    decode (BitVec.ofNat 32 (w % 2 ^ 32)) = .ok i := by
  rw [decodeTableWord, if_pos (Nat.mod_lt _ (by decide))] at h
  split at h
  next j hd => rw [hd, Option.some.inj h]
  next => cases h

end Sys2Proof.Machine

namespace Sys2Proof.Proofs

open Sys2Proof.Machine

/-- Settles O12: the step is the acceptance of the word, and a word that decodes runs its command. -/
theorem cmdWriteRunsTheDecodedCommand : Obligations.CmdWriteRunsTheDecodedCommand :=
  fun _ _ _ _ hp he hd => (step_write_cmd hp he).trans (acceptCommand_of_decode_eq_ok _ hd)

/-- Settles O13: the step is the engine's turn, and the snapshot names the command. -/
theorem engineTurnRunsTheSnapshotCommand : Obligations.EngineTurnRunsTheSnapshotCommand :=
  fun _ _ _ _ hp he hd => step_engine_of_busy he hp hd

/-- Settles O14: the placed word is the next CMD write, and it finds the engine IDLE. -/
theorem placedWordRunsNext : Obligations.PlacedWordRunsNext :=
  fun _ _ _ h => (step_write_cmd rfl rfl).trans (acceptCommand_of_decode_eq_ok _ (decode_of_decodeTableWord h))

/-- Settles O15: the acceptance of NOP is its completion. -/
theorem nopCompletesAtAcceptance : Obligations.NopCompletesAtAcceptance := by
  intro s hp
  rw [exec_idle .nop s hp, State.accept, State.complete, ← hp]
  rfl

/-- Settles O16: each command passes the checks of its clause, and the snapshot is that of its acceptance. -/
theorem computeCommandsTakeTheirSnapshot : Obligations.ComputeCommandsTakeTheirSnapshot := by
  intro s hp
  refine ⟨fun rot hlo hhi => ?siphash, fun rot xa hlo hhi => ?sipblock, fun uorv sh => ?sipnode,
    fun ne hle hge => ?seed⟩
  case siphash =>
    exact exec_compute_of_not_seed hp nofun ((passesChecks_encode ..).trans ((rotLegal_iff rot).2 ⟨hlo, hhi⟩))
  case sipblock =>
    exact exec_compute_of_not_seed hp nofun ((passesChecks_encode ..).trans ((rotLegal_iff rot).2 ⟨hlo, hhi⟩))
  case sipnode => exact exec_compute_of_not_seed hp nofun (passesChecks_encode ..)
  case seed =>
    have hpass := (passesChecks_encode s.build s.hlen (.seed ne)).trans ((hlenLegal_iff ..).2 ⟨hle, hge⟩)
    rw [exec_of_passesChecks hp hpass, State.start, takeSnapshot_encode_seed, Memory.readBytes_zero]
    rfl

/-- Settles O18: the length check fails on either ground, and the acceptance is an error entry. -/
theorem badHeaderLengthIsRejected : Obligations.BadHeaderLengthIsRejected := by
  intro s ne hp hbad
  exact exec_of_hlenLegal_eq_false hp ((hlenLegal_eq_false_iff ..).2 hbad)

end Sys2Proof.Proofs
end

section
/-! The digest input of SEED and the completion of each command (spec/41_keyedhash.md R133; 42_blockhash.md R152;
44_graphparams.md R200 to R205). -/

namespace Sys2Proof.Machine

/-! ### The endpoint of SIPNODE as a number -/

theorem bit64_eq_ofNat (b : Bool) : bit64 b = BitVec.ofNat 64 b.toNat := by cases b <;> rfl

/-- The number the endpoint of SIPNODE is made of: the hash of `2·edge + UORV`, reduced to EDGE_BITS bits
(44_graphparams.md R204). -/
def nodeNumber (k : Keys) (edge : Word64) (uorv : Bool) (eb : BitVec 6) : Nat :=
  (keyedHash k (2 * edge + bit64 uorv) 21).toNat % 2 ^ eb.toNat

section
variable (k : Keys) (edge : Word64) (uorv : Bool) (eb : BitVec 6)

theorem nodeNumber_lt : nodeNumber k edge uorv eb < 2 ^ eb.toNat := Nat.mod_lt _ (Nat.two_pow_pos _)

theorem toNat_sipNode_unshifted :
    (sipNode k edge (bit64 uorv) false (edgeMask eb)).toNat = nodeNumber k edge uorv eb :=
  toNat_and_edgeMask _ eb

theorem sipNode_shifted (mask : Word64) :
    sipNode k edge (bit64 uorv) true mask
      = (keyedHash k (2 * edge + bit64 uorv) 21 &&& mask) <<< 1 ||| bit64 uorv := rfl

/-- The shift loses no bit, as EDGE_BITS is at most 63, and leaves bit 0 to UORV (44_graphparams.md R204). -/
theorem toNat_sipNode_shifted :
    (sipNode k edge (bit64 uorv) true (edgeMask eb)).toNat = 2 * nodeNumber k edge uorv eb + uorv.toNat := by
  have hx := toNat_and_edgeMask (keyedHash k (2 * edge + bit64 uorv) 21) eb
  have hlt := Nat.lt_of_lt_of_le (nodeNumber_lt k edge uorv eb) (two_pow_edgeBits_le eb)
  have hmod : nodeNumber k edge uorv eb * 2 ^ 1 % 2 ^ 64 = 2 * nodeNumber k edge uorv eb := by omega
  have hor := Nat.two_pow_add_eq_or_of_lt (i := 1) uorv.toNat_lt (nodeNumber k edge uorv eb)
  rw [sipNode_shifted, BitVec.toNat_or, BitVec.toNat_shiftLeft, hx, toNat_bit64, Nat.shiftLeft_eq, ← nodeNumber, hmod]
  exact hor.symm

end

/-! ### The digest input -/

theorem getElem?_bytesLE32 (v : Word32) {k : Nat} (h : k < 4) : (bytesLE32 v)[k]? = some (v.extractLsb' (8 * k) 8) := by
  interval_cases k <;> rfl

@[simp] theorem length_bytesLE32 (v : Word32) : (bytesLE32 v).length = 4 := rfl

/-- With the nonce the digest input is the header less four bytes, then the nonce (44_graphparams.md R201). -/
theorem seedInput_true (snap : Snapshot) :
    seedInput snap true = snap.hbuf.take (snap.hlen.toNat - 4) ++ (bytesLE32 snap.hnonce).map some := rfl

/-- The completion of SEED over written bytes draws nothing and reports nothing (44_graphparams.md R203). -/
theorem exec_seed_of_written {s : State} {snap : Snapshot} {ne : Bool} {m : List Byte} (hp : s.phase = .busy snap)
    (hm : seedInput snap ne = m.map some) :
    exec (.seed ne) s = .next (s.completeSeed (digest256 s.build.digestAlg m)) := by
  rw [exec_busy _ s hp]
  simp [hm, State.noteInput]

/-- A digest input with a byte that was never written is drawn free and reported (70_reset_and_hazards.md R268). -/
theorem State.noteInput_of_unwritten {s : State} {input : List (Option Byte)} (h : input.all Option.isSome = false) :
    s.noteInput input = { s with draws := drawsAfter s.draws input, hostFault := some .unwrittenHeader } := by
  simp [State.noteInput, h]

end Sys2Proof.Machine

namespace Sys2Proof.Proofs

open Sys2Proof.Machine

/-- Settles O20: the completion half of SIPHASH. -/
theorem siphashCompletesWithKeyedHash : Obligations.SiphashCompletesWithKeyedHash :=
  fun s _ rot hp => exec_busy (.siphash rot) s hp

/-- Settles O21: the completion half of SIPBLOCK. -/
theorem sipblockCompletesWithBlockHash : Obligations.SipblockCompletesWithBlockHash :=
  fun s _ rot xa hp => exec_busy (.sipblock rot xa) s hp

/-- Settles O22: the mask reduces modulo `2^EDGE_BITS`, and the shift doubles without overflow. -/
theorem sipnodeCompletesWithTheEndpoint : Obligations.SipnodeCompletesWithTheEndpoint := by
  intro s snap uorv hp
  have hplain := toNat_sipNode_unshifted snap.keys snap.nonce uorv snap.edgeBits
  have hshift := toNat_sipNode_shifted snap.keys snap.nonce uorv snap.edgeBits
  rw [← bit64_eq_ofNat]
  constructor
  · rw [exec_busy _ s hp, ← nodeNumber, ← hplain, BitVec.ofNat_toNat, BitVec.setWidth_eq]
    rfl
  · rw [exec_busy _ s hp, ← nodeNumber, ← hshift, BitVec.ofNat_toNat, BitVec.setWidth_eq]
    rfl

/-- Settles O23: over written bytes the completion draws nothing, so the digest is that of `m`. -/
theorem seedCompletesWithTheSplitDigest : Obligations.SeedCompletesWithTheSplitDigest :=
  fun _ _ _ _ hp hm => exec_seed_of_written hp hm

/-- Settles O24: the digested bytes are the input with a free value in each place that was never written. -/
theorem seedOverUnwrittenBytesCompletes : Obligations.SeedOverUnwrittenBytesCompletes := by
  intro s snap ne hp hnone
  have hall : (seedInput snap ne).all Option.isSome = false := List.all_eq_false.2 ⟨none, hnone, nofun⟩
  refine ⟨fillFree s.draws (seedInput snap ne), drawsAfter s.draws (seedInput snap ne), length_fillFree .., ?_, ?_⟩
  · exact fun k b hk => getElem?_fillFree _ _ k b hk
  · rw [exec_busy _ s hp]
    dsimp only
    rw [State.noteInput_of_unwritten hall]
    rfl

/-- Settles O25: the nonce's four bytes stand behind the first HLEN - 4 of the header. -/
theorem theNonceOverwritesTheLastFourBytes : Obligations.TheNonceOverwritesTheLastFourBytes := by
  intro snap hlen
  refine ⟨rfl, fun hge => ?_⟩
  have hkept : (snap.hbuf.take (snap.hlen.toNat - 4)).length = snap.hlen.toNat - 4 := by
    rw [List.length_take, hlen]
    omega
  rw [seedInput_true]
  refine ⟨?length, fun k hk => ?header, fun k hk => ?nonce⟩
  case length =>
    rw [List.length_append, hkept, List.length_map, length_bytesLE32]
    omega
  case header => rw [List.getElem?_append_left (by rwa [hkept]), List.getElem?_take_of_lt hk]
  case nonce =>
    rw [List.getElem?_append_right (by omega), hkept, Nat.add_sub_cancel_left, List.getElem?_map,
      getElem?_bytesLE32 _ hk]
    rfl

end Sys2Proof.Proofs
end

section
/-! The obligation about the registers that a command leaves unchanged (spec/40_commands.md R120). -/

namespace Sys2Proof.Machine

/-- No half of a command writes an operand, the buffer, IE, WERR, the build or the machine's inputs and bus answer
(40_commands.md R120). -/
theorem exec_frame {i : Instr} {s t : State} (h : exec i s = .next t) :
    t.build = s.build ∧ t.ie = s.ie ∧ t.werr = s.werr ∧ t.nonce = s.nonce ∧ t.edgeBits = s.edgeBits
      ∧ t.hlen = s.hlen ∧ t.hnonce = s.hnonce ∧ t.hbuf = s.hbuf ∧ t.events = s.events ∧ t.response = s.response := by
  cases hp : s.phase with
  | idle =>
    obtain ⟨-, rfl⟩ | rfl | ⟨c, -, rfl⟩ := exec_idle_cases hp h <;>
      exact ⟨rfl, rfl, rfl, rfl, rfl, rfl, rfl, rfl, rfl, rfl⟩
  | busy snap =>
    obtain ⟨-, rfl⟩ | ⟨-, -, x, rfl⟩ | ⟨ne, d, -, rfl⟩ := exec_busy_cases hp h <;>
      exact ⟨rfl, rfl, rfl, rfl, rfl, rfl, rfl, rfl, rfl, rfl⟩

/-- The acceptance half of a command writes no result register (40_commands.md R111, R120; 60_exceptions.md R222). -/
theorem exec_idle_results {i : Instr} {s t : State} (hp : s.phase = .idle) (h : exec i s = .next t) :
    t.out = s.out ∧ t.keys = s.keys ∧ t.digest = s.digest := by
  obtain ⟨-, rfl⟩ | rfl | ⟨c, -, rfl⟩ := exec_idle_cases hp h <;> exact ⟨rfl, rfl, rfl⟩

end Sys2Proof.Machine

namespace Sys2Proof.Proofs

open Sys2Proof.Machine

/-- Settles O26: the frame by the outcomes of both halves, the result registers by the three kinds of completion. -/
theorem onlyTheListedRegistersAreWritten : Obligations.OnlyTheListedRegistersAreWritten := by
  intro i s t h
  obtain ⟨hbuild, hie, hwerr, hnonce, hedge, hhlen, hhnonce, hhbuf, hevents, hresponse⟩ := exec_frame h
  refine ⟨⟨hbuild, hie, hwerr, hnonce, hedge, hhlen, hhnonce, fun a => by rw [hhbuf], hevents, hresponse⟩,
    fun hp => exec_idle_results hp h, fun snap hp => ⟨(completion_of_exec hp h).cmd, ?_⟩⟩
  obtain ⟨rfl, rfl⟩ | ⟨hseed, hnop, x, rfl⟩ | ⟨ne, d, rfl, rfl⟩ := exec_busy_cases hp h
  · exact ⟨fun _ => ⟨rfl, rfl, rfl⟩, nofun, fun _ => ⟨rfl, rfl⟩⟩
  · exact ⟨fun hi => absurd hi hnop, fun ne hi => absurd hi (hseed ne), fun _ => ⟨rfl, rfl⟩⟩
  · exact ⟨nofun, fun _ _ => rfl, fun hi => absurd rfl (hi ne)⟩

end Sys2Proof.Proofs
end

section
/-! What a host access can change while a command is in flight, and runs of such accesses (spec/20_memory.md R71;
40_commands.md R112, R116). -/

namespace Sys2Proof.Machine

/-! ### Runs -/

theorem runSteps_one (s : State) : runSteps 1 s = step s := by
  cases h : step s <;> simp [runSteps, h]

theorem runSteps_add {s t : State} {n : Nat} (m : Nat) (h : runSteps n s = .next t) :
    runSteps (n + m) s = runSteps m t := by
  induction n generalizing s with
  | zero =>
    obtain rfl := Host.Outcome.next.inj h
    rw [Nat.zero_add]
  | succ n ih =>
    rw [runSteps] at h
    split at h
    next u hu => rw [Nat.add_right_comm, runSteps_succ_of_step _ hu, ih h]
    next => cases h
    next => cases h

/-! ### A host access while BUSY -/

/-- The two states agree in all that no host access changes while BUSY, short of a reset: the operands, the results,
HBUF, CMD, ERRCODE and the phase with its snapshot (20_memory.md R71; 10_state.md R22). -/
structure SameLocked (s t : State) : Prop where
  build : t.build = s.build
  errcode : t.errcode = s.errcode
  cmd : t.cmd = s.cmd
  keys : t.keys = s.keys
  nonce : t.nonce = s.nonce
  edgeBits : t.edgeBits = s.edgeBits
  hlen : t.hlen = s.hlen
  hnonce : t.hnonce = s.hnonce
  out : t.out = s.out
  digest : t.digest = s.digest
  hbuf : t.hbuf = s.hbuf
  phase : t.phase = s.phase

theorem SameLocked.refl (s : State) : SameLocked s s := by constructor <;> rfl

theorem SameLocked.trans {s t u : State} (h : SameLocked s t) (h' : SameLocked t u) : SameLocked s u where
  build := h'.build.trans h.build
  errcode := h'.errcode.trans h.errcode
  cmd := h'.cmd.trans h.cmd
  keys := h'.keys.trans h.keys
  nonce := h'.nonce.trans h.nonce
  edgeBits := h'.edgeBits.trans h.edgeBits
  hlen := h'.hlen.trans h.hlen
  hnonce := h'.hnonce.trans h.hnonce
  out := h'.out.trans h.out
  digest := h'.digest.trans h.digest
  hbuf := h'.hbuf.trans h.hbuf
  phase := h'.phase.trans h.phase

/-- The writes that the bus performs while BUSY reach no locked register (20_memory.md R71). -/
theorem State.sameLocked_writeLoc (s : State) {l : Loc} {v : Word32} (hb : l.busyLocked = false)
    (hr : l = .ctrl → v.getLsbD 1 = false) : SameLocked s (s.writeLoc l v) := by
  cases l with
  | ctrl =>
    change SameLocked s (s.writeCtrl v)
    rw [s.writeCtrl_of_not_srst (hr rfl)]
    constructor <;> rfl
  | status => constructor <;> rfl
  | key j h => cases hb
  | nonce h => cases hb
  | edgeBits => cases hb
  | hlen => cases hb
  | hnonce => cases hb
  | hbuf j => cases hb
  | _ => exact .refl s

/-- The inputs still to come are no location: no write changes them, not even one that resets the core (log entry 13).
-/
theorem State.writeLoc_events (s : State) (l : Loc) (v : Word32) : (s.writeLoc l v).events = s.events := by
  cases l with
  | ctrl =>
    change (s.writeCtrl v).events = s.events
    cases hv : v.getLsbD 1 with
    | true => rw [s.writeCtrl_of_srst hv, State.coreReset_events]
    | false => rw [s.writeCtrl_of_not_srst hv]
  | _ => rfl

/-- A host access that does not reset the core leaves the locked registers as they were (20_memory.md R65, R71). -/
theorem step_host_of_busy {s : State} {snap : Snapshot} {a : Access} {rest : List Event} (hp : s.phase = .busy snap)
    (he : s.events = .host a :: rest) (ha : ¬ (Event.host a).Resets) :
    ∃ t, step s = .next t ∧ t.events = rest ∧ SameLocked s t := by
  obtain ⟨t, ht⟩ := hostAccess_next a (s.beginStep rest)
  have hs := (step_host he).trans ht
  refine ⟨t, hs, ?_⟩
  rcases hostAccess_cases a (s.beginStep rest) with ⟨-, hx⟩ | ⟨off, l, -, -, hx⟩ | ⟨off, v, l, rfl, hl, hx⟩
  · obtain rfl := Host.Outcome.next.inj (hx.symm.trans ht)
    exact ⟨rfl, by constructor <;> rfl⟩
  · obtain rfl := Host.Outcome.next.inj (hx.symm.trans ht)
    exact ⟨rfl, by constructor <;> rfl⟩
  · rcases hostWrite_cases off l v (s.beginStep rest) with ⟨-, -, hw⟩ | ⟨hidle, -, -⟩ | ⟨-, hb, hw⟩
    · obtain rfl := Host.Outcome.next.inj ((hx.trans hw).symm.trans ht)
      exact ⟨rfl, by constructor <;> rfl⟩
    · cases hp.symm.trans hidle
    · obtain rfl := Host.Outcome.next.inj ((hx.trans hw).symm.trans ht)
      have hsrst : l = .ctrl → v.getLsbD 1 = false := by
        rintro rfl
        obtain rfl := locate_eq_ctrl_iff.1 hl
        simpa [Event.Resets] using ha
      have hunlocked : l.busyLocked = false := hb.resolve_left fun hidle => by cases hp.symm.trans hidle
      have hsame := ((s.beginStep rest).respondOkay 0).sameLocked_writeLoc hunlocked hsrst
      exact ⟨State.writeLoc_events .., .trans (by constructor <;> rfl) hsame⟩

/-- However many accesses the host makes while a command is in flight, the locked registers stay
(20_memory.md R71). -/
theorem runSteps_hosts_of_busy {s : State} {snap : Snapshot} (accs : List Access) {rest : List Event}
    (hp : s.phase = .busy snap) (he : s.events = accs.map Event.host ++ rest)
    (ha : ∀ a ∈ accs, ¬ (Event.host a).Resets) :
    ∃ t, runSteps accs.length s = .next t ∧ t.events = rest ∧ SameLocked s t := by
  induction accs generalizing s with
  | nil => exact ⟨s, rfl, he, .refl s⟩
  | cons a accs ih =>
    obtain ⟨ha, haccs⟩ := List.forall_mem_cons.1 ha
    obtain ⟨u, hu, hevents, hlocked⟩ := step_host_of_busy hp he ha
    have hphase : u.phase = .busy snap := hlocked.phase.trans hp
    obtain ⟨t, ht, hrest, hsame⟩ := ih hphase hevents haccs
    exact ⟨t, (runSteps_succ_of_step _ hu).trans ht, hrest, hlocked.trans hsame⟩

/-! ### From the acceptance of a command to its completion -/

/-- The run of a compute command: its acceptance, any host accesses that do not reset, and the engine's turn, which
finds the locked registers as the acceptance left them (40_commands.md R111 to R115). -/
theorem runSteps_of_command {s : State} {i : Instr} {accs : List Access} {rest : List Event} (hp : s.phase = .idle)
    (hc : passesChecks s.build s.hlen (encode i) = true) (ha : ∀ a ∈ accs, ¬ (Event.host a).Resets)
    (he : s.events = .host (.write .word 0x010 (encode i)) :: (accs.map Event.host ++ .engine :: rest)) :
    ∃ u : State, runSteps (accs.length + 2) s = exec i u ∧ u.events = rest
      ∧ SameLocked ((s.accept (encode i)).start (encode i)) u := by
  have haccept := (step_write_cmd hp he).trans ((acceptCommand_encode i _).trans (exec_of_passesChecks hp hc))
  obtain ⟨v, hv, hphase, hevents, hstart⟩ : ∃ v : State, step s = .next v ∧ v.phase = .busy (s.takeSnapshot (encode i))
      ∧ v.events = accs.map Event.host ++ .engine :: rest ∧ SameLocked ((s.accept (encode i)).start (encode i)) v :=
    ⟨_, haccept, rfl, rfl, by constructor <;> rfl⟩
  obtain ⟨u, hu, hnext, hlocked⟩ := runSteps_hosts_of_busy accs hphase hevents ha
  refine ⟨u.beginStep rest, ?_, rfl, (hstart.trans hlocked).trans (by constructor <;> rfl)⟩
  rw [runSteps_succ_of_step _ hv, runSteps_add 1 hu, runSteps_one]
  exact step_engine_of_busy (.inl hnext) (hlocked.phase.trans hphase) (decode_encode i)

/-- A command in flight that writes OUT completes with its result (40_commands.md R115, R120). -/
theorem exec_of_snapshotOut {s : State} {snap : Snapshot} {i : Instr} {r : Word64} (hp : s.phase = .busy snap)
    (hr : snapshotOut snap i = some r) : exec i s = .next (s.completeOut r) := by
  rw [exec_busy i s hp]
  cases i with
  | nop => cases hr
  | seed ne => cases hr
  | _ => cases hr; rfl

/-- The snapshot of the acceptance holds the operands that the result is made of (40_commands.md R112). -/
theorem snapshotOut_takeSnapshot {s : State} {i : Instr} {r : Word64} (w : Word32) (h : commandOut s i = some r) :
    snapshotOut (s.takeSnapshot w) i = some r := by
  cases i with
  | siphash rot => exact (Option.ite_none_right_eq_some.1 h).2
  | sipblock rot xa => exact (Option.ite_none_right_eq_some.1 h).2
  | _ => exact h

theorem passesChecks_of_commandOut {s : State} {i : Instr} {r : Word64} (h : commandOut s i = some r) :
    passesChecks s.build s.hlen (encode i) = true := by
  rw [passesChecks_encode]
  cases i with
  | siphash rot => exact (Option.ite_none_right_eq_some.1 h).1
  | sipblock rot xa => exact (Option.ite_none_right_eq_some.1 h).1
  | sipnode uorv sh => rfl
  | _ => cases h

/-- The digest input of a SEED is the bytes `m`, if `m` is the header less what the nonce overwrites, and the nonce
(44_graphparams.md R201). -/
theorem seedInput_takeSnapshot {s : State} {ne : Bool} {m : List Byte} (hm : m.length = s.hlen.toNat)
    (hheader : ∀ k, k < s.hlen.toNat → (ne = true → k < s.hlen.toNat - 4) → s.hbuf.read k = m[k]?)
    (hnonce : ne = true → m.drop (s.hlen.toNat - 4) = bytesLE32 s.hnonce) :
    seedInput (s.takeSnapshot (encode (.seed ne))) ne = m.map some := by
  rw [takeSnapshot_encode_seed, Memory.readBytes_zero]
  cases ne with
  | false =>
    change (List.range s.hlen.toNat).map (fun k => s.hbuf.read k) = m.map some
    refine List.ext_getElem (by simp [hm]) fun k hk _ => ?_
    simp only [List.length_map, List.length_range] at hk
    simp [hheader k hk nofun]
  | true =>
    rw [seedInput_true]
    change ((List.range s.hlen.toNat).map fun k => s.hbuf.read k).take (s.hlen.toNat - 4)
      ++ (bytesLE32 s.hnonce).map some = m.map some
    rw [← hnonce rfl]
    have htake : ((List.range s.hlen.toNat).map fun k => s.hbuf.read k).take (s.hlen.toNat - 4)
        = (m.map some).take (s.hlen.toNat - 4) := by
      refine List.ext_getElem (by simp [hm]) fun k hk _ => ?_
      simp only [List.length_take, List.length_map, List.length_range] at hk
      have hlt : k < s.hlen.toNat - 4 := by omega
      simp [hheader k (by omega) fun _ => hlt]
    rw [htake, List.map_drop, List.take_append_drop]

/-- A command in flight completes at the engine's turn, which comes after the host accesses that stand before it in the
queue, or when the queue is empty (40_commands.md R116; log entry 2). -/
theorem busy_completes {snap : Snapshot} {i : Instr} (hd : decode snap.w = .ok i) (es : List Event) {s : State}
    (he : s.events = es) (hp : s.phase = .busy snap) (hr : ∀ e ∈ es, ¬ e.Resets) :
    ∃ k u t, k ≤ es.length ∧ runSteps k s = .next u ∧ u.phase = .busy snap
      ∧ step u = .next t ∧ t.phase = .idle ∧ t.done = true ∧ t.err = false ∧ t.errcode = 0 := by
  induction es generalizing s with
  | nil =>
    obtain ⟨t, ht, hc⟩ := step_completes (.inr ⟨he, rfl⟩) hp hd
    exact ⟨0, s, t, le_rfl, rfl, hp, ht, hc.phase, hc.done, hc.err, hc.errcode⟩
  | cons e es ih =>
    obtain ⟨hfirst, hrest⟩ := List.forall_mem_cons.1 hr
    cases e with
    | engine =>
      obtain ⟨t, ht, hc⟩ := step_completes (.inl he) hp hd
      exact ⟨0, s, t, Nat.zero_le _, rfl, hp, ht, hc.phase, hc.done, hc.err, hc.errcode⟩
    | rstN => exact absurd (.inl rfl) hfirst
    | host a =>
      obtain ⟨v, hv, hevents, hlocked⟩ := step_host_of_busy hp he hfirst
      obtain ⟨k, u, t, hk, hrun, hu⟩ := ih hevents (hlocked.phase.trans hp) hrest
      exact ⟨k + 1, u, t, Nat.succ_le_succ hk, (runSteps_succ_of_step k hv).trans hrun, hu⟩

end Sys2Proof.Machine
end

section
/-! The obligations about whole commands: bounded completion, and results that no host access disturbs
(spec/40_commands.md R112, R116; 44_graphparams.md R201 to R203). -/

namespace Sys2Proof.Proofs

open Sys2Proof.Machine

/-- Settles O5: each host access takes one input and leaves the snapshot, and the engine moves at its turn or when no
input is left. -/
theorem aBusyEngineCompletes : Obligations.ABusyEngineCompletes := by
  intro s snap hinv hp hr
  obtain ⟨i, hd⟩ := hinv.decode_snapshot hp
  exact busy_completes hd s.events rfl hp hr

/-- Settles O27: the engine's turn finds the snapshot of the acceptance and writes OUT; everything else that the claim
names is locked. -/
theorem hostAccessesDoNotDisturbARunningCommand : Obligations.HostAccessesDoNotDisturbARunningCommand := by
  intro s i r accs rest hp hr ha he
  obtain ⟨u, hrun, hevents, hlocked⟩ := runSteps_of_command hp (passesChecks_of_commandOut hr) ha he
  have hout := exec_of_snapshotOut hlocked.phase (snapshotOut_takeSnapshot (encode i) hr)
  refine ⟨u.completeOut r, hrun.trans hout, rfl, rfl, rfl, rfl, rfl, hlocked.cmd, hlocked.keys,
    hlocked.nonce, hlocked.edgeBits, hlocked.hlen, hlocked.hnonce, hlocked.digest, fun a => ?_, hevents⟩
  exact congrArg (Memory.read · a) hlocked.hbuf

/-- Settles O28: the same run, where the snapshot's digest input is the bytes `m`. -/
theorem hostAccessesDoNotDisturbARunningSeed : Obligations.HostAccessesDoNotDisturbARunningSeed := by
  intro s ne m accs rest hp hm hle hge hheader hnonce ha he
  have hpass := (passesChecks_encode s.build s.hlen (.seed ne)).trans ((hlenLegal_iff ..).2 ⟨hle, hge⟩)
  obtain ⟨u, hrun, hevents, hlocked⟩ := runSteps_of_command hp hpass ha he
  have hbuild : u.build = s.build := hlocked.build
  rw [exec_seed_of_written hlocked.phase (seedInput_takeSnapshot hm hheader hnonce), hbuild] at hrun
  refine ⟨_, hrun, rfl, rfl, rfl, rfl, rfl, rfl, hlocked.out, hlocked.nonce, hlocked.hlen,
    hlocked.hnonce, fun a => ?_, hevents⟩
  exact congrArg (Memory.read · a) hlocked.hbuf

end Sys2Proof.Proofs
end

section
/-! Who changes the result registers and WERR: each kind of step, by what it leaves in them (spec/10_state.md R25,
R27, R33, R34; 60_exceptions.md R228). -/

namespace Sys2Proof.Machine

/-- STATUS has one offset (10_state.md R22). -/
theorem locate_eq_status_iff {b : Build} {off : BitVec 13} : locate b off = some .status ↔ off = 0x00C := by
  refine ⟨fun h => BitVec.eq_of_toNat_eq ?_, fun h => h ▸ locate_status b⟩
  simpa [registerMap] using mem_registerMap_of_locate h nofun

/-- The key halves lie at 0x020 to 0x03C (10_state.md R22). -/
theorem key_offset_bounds {b : Build} {off : BitVec 13} {j : Fin 4} {h : Half} (hl : locate b off = some (.key j h)) :
    0x020 ≤ off.toNat ∧ off.toNat ≤ 0x03C := by
  have hmem := mem_registerMap_of_locate hl nofun
  simp only [registerMap, List.mem_cons, Prod.mk.injEq, Loc.key.injEq, reduceCtorEq, and_false, false_or,
    List.not_mem_nil, or_false] at hmem
  omega

/-- A write to a location changes no result register, unless it resets the core or writes a key (10_state.md R27, R33,
R34). -/
theorem State.writeLoc_results (s : State) (l : Loc) (v : Word32) :
    (l = .ctrl ∧ v.getLsbD 1 = true)
    ∨ ((s.writeLoc l v).out = s.out ∧ (s.writeLoc l v).digest = s.digest
      ∧ ((s.writeLoc l v).keys = s.keys ∨ ∃ j h, l = .key j h)) := by
  cases l with
  | ctrl =>
    cases hv : v.getLsbD 1 with
    | true => exact .inl ⟨rfl, rfl⟩
    | false =>
      change _ ∨ ((s.writeCtrl v).out = _ ∧ (s.writeCtrl v).digest = _ ∧ ((s.writeCtrl v).keys = _ ∨ _))
      rw [s.writeCtrl_of_not_srst hv]
      exact .inr ⟨rfl, rfl, .inl rfl⟩
  | key j h => exact .inr ⟨rfl, rfl, .inr ⟨j, h, rfl⟩⟩
  | _ => exact .inr ⟨rfl, rfl, .inl rfl⟩

/-- A write to a location leaves WERR, unless it resets the core or writes 1 to bit 3 of STATUS (10_state.md R25). -/
theorem State.writeLoc_werr (s : State) (l : Loc) (v : Word32) :
    (s.writeLoc l v).werr = s.werr
    ∨ (s.writeLoc l v).werr = false ∧ (l = .ctrl ∧ v.getLsbD 1 = true ∨ l = .status ∧ v.getLsbD 3 = true) := by
  cases l with
  | ctrl =>
    change (s.writeCtrl v).werr = _ ∨ (s.writeCtrl v).werr = _ ∧ _
    cases hv : v.getLsbD 1 with
    | true => rw [s.writeCtrl_of_srst hv]; exact .inr ⟨rfl, .inl ⟨rfl, rfl⟩⟩
    | false => rw [s.writeCtrl_of_not_srst hv]; exact .inl rfl
  | status =>
    change (s.writeStatus v).werr = _ ∨ (s.writeStatus v).werr = _ ∧ _
    rw [State.writeStatus_werr]
    cases hv : v.getLsbD 3 with
    | true => exact .inr ⟨by simp, .inr ⟨rfl, rfl⟩⟩
    | false => exact .inl (by simp)
  | _ => exact .inl rfl

theorem resetNext_of_write_ctrl {s : State} {rest : List Event} {off : BitVec 13} {v : Word32}
    (he : s.events = .host (.write .word off v) :: rest) (hl : locate s.build off = some .ctrl)
    (hv : v.getLsbD 1 = true) : s.ResetNext := by
  obtain rfl := locate_eq_ctrl_iff.1 hl
  exact ⟨_, rest, he, .inr ⟨v, rfl, hv⟩⟩

theorem resetNext_of_rstN {s : State} {rest : List Event} (he : s.events = .rstN :: rest) : s.ResetNext :=
  ⟨_, rest, he, .inl rfl⟩

/-- The acceptance of a CMD write changes no result register and leaves WERR (40_commands.md R111, R120). -/
theorem acceptCommand_results {s t : State} {w : Word32} (hp : s.phase = .idle) (h : acceptCommand w s = .next t) :
    t.out = s.out ∧ t.digest = s.digest ∧ t.keys = s.keys ∧ t.werr = s.werr := by
  obtain ⟨-, rfl⟩ | rfl | ⟨c, -, rfl⟩ := acceptCommand_idle_cases hp h <;> exact ⟨rfl, rfl, rfl, rfl⟩

/-- What a step can do to the result registers (10_state.md R27, R33, R34): a completion or a reset may change them
all, and a write to a key half while IDLE that key alone. -/
theorem step_results_cases {s t : State} (h : step s = .next t) :
    (∃ rest snap, s.EngineNext rest ∧ s.phase = .busy snap) ∨ s.ResetNext
    ∨ (t.out = s.out ∧ t.digest = s.digest
      ∧ (t.keys = s.keys
        ∨ s.phase = .idle ∧ ∃ rest off v, s.events = .host (.write .word off v) :: rest
            ∧ 0x020 ≤ off.toNat ∧ off.toNat ≤ 0x03C)) := by
  cases stepTo_of_step h with
  | wait => exact .inr (.inr ⟨rfl, rfl, .inl rfl⟩)
  | completion rest snap i t he hp => exact .inl ⟨rest, snap, he, hp⟩
  | rstN rest he => exact .inr (.inl (resetNext_of_rstN he))
  | busError => exact .inr (.inr ⟨rfl, rfl, .inl rfl⟩)
  | read => exact .inr (.inr ⟨rfl, rfl, .inl rfl⟩)
  | dropped => exact .inr (.inr ⟨rfl, rfl, .inl rfl⟩)
  | command rest off w t he hl hp hx =>
    obtain ⟨hout, hdigest, hkeys, -⟩ := acceptCommand_results (s := (s.beginStep rest).respondOkay 0) hp hx
    exact .inr (.inr ⟨hout, hdigest, .inl hkeys⟩)
  | write rest off l v he hl hne hw =>
    obtain ⟨rfl, hv⟩ | ⟨hout, hdigest, hkeys⟩ := ((s.beginStep rest).respondOkay 0).writeLoc_results l v
    · exact .inr (.inl (resetNext_of_write_ctrl he hl hv))
    · refine .inr (.inr ⟨hout, hdigest, hkeys.imp id ?_⟩)
      rintro ⟨j, h, rfl⟩
      exact ⟨hw.resolve_right nofun, rest, off, v, he, key_offset_bounds hl⟩

/-- What a step can do to WERR: leave it, set it by a dropped write, or clear it by a reset or by writing 1 to bit 3 of
STATUS (10_state.md R25; 60_exceptions.md R228). -/
theorem step_werr_cases {s t : State} (h : step s = .next t) :
    t.werr = s.werr
    ∨ (t.werr = true ∧ ∃ snap rest off v l, s.phase = .busy snap ∧ s.events = .host (.write .word off v) :: rest
        ∧ locate s.build off = some l ∧ l.busyLocked = true)
    ∨ (t.werr = false
        ∧ (s.ResetNext ∨ ∃ rest v, s.events = .host (.write .word 0x00C v) :: rest ∧ v.getLsbD 3 = true)) := by
  cases stepTo_of_step h with
  | wait => exact .inl rfl
  | completion rest snap i t he hp hd hx => exact .inl (completion_of_exec (s := s.beginStep rest) hp hx).werr
  | rstN rest he => exact .inr (.inr ⟨rfl, .inl (resetNext_of_rstN he)⟩)
  | busError => exact .inl rfl
  | read => exact .inl rfl
  | dropped rest off l v he hl hp hb =>
    obtain ⟨snap, hsnap⟩ := Phase.isBusy_eq_true hp
    exact .inr (.inl ⟨rfl, snap, rest, off, v, l, hsnap, he, hl, hb⟩)
  | command rest off w t he hl hp hx =>
    obtain ⟨-, -, -, hwerr⟩ := acceptCommand_results (s := (s.beginStep rest).respondOkay 0) hp hx
    exact .inl hwerr
  | write rest off l v he hl =>
    obtain hsame | ⟨hclear, ⟨rfl, hv⟩ | ⟨rfl, hv⟩⟩ := ((s.beginStep rest).respondOkay 0).writeLoc_werr l v
    · exact .inl hsame
    · exact .inr (.inr ⟨hclear, .inl (resetNext_of_write_ctrl he hl hv)⟩)
    · obtain rfl := locate_eq_status_iff.1 hl
      exact .inr (.inr ⟨hclear, .inr ⟨rest, v, he, hv⟩⟩)

end Sys2Proof.Machine
end

section
/-! The obligations about who changes what (spec/10_state.md R25, R27, R33, R34; 60_exceptions.md R228). -/

namespace Sys2Proof.Proofs

open Sys2Proof.Machine

/-- Settles O30, by the kinds of step. -/
theorem resultsChangeOnlyAtCompletionOrReset : Obligations.ResultsChangeOnlyAtCompletionOrReset := by
  intro s t h
  obtain hcompletion | hreset | ⟨hout, hdigest, hkeys⟩ := step_results_cases h
  · exact ⟨fun _ => .inl hcompletion, fun _ => .inl hcompletion⟩
  · exact ⟨fun _ => .inr hreset, fun _ => .inr (.inl hreset)⟩
  · refine ⟨fun hchange => ?_, fun hchange => .inr (.inr (hkeys.resolve_left hchange))⟩
    exact absurd hdigest (hchange.resolve_left (not_not_intro hout))

/-- Settles O31, by the kinds of step. -/
theorem werrIsSticky : Obligations.WerrIsSticky := by
  intro s t h
  obtain hsame | ⟨hset, hdropped⟩ | ⟨hclear, hcause⟩ := step_werr_cases h
  · refine ⟨fun hs ht => ?_, fun hs ht => ?_⟩ <;> simp [hs, ht] at hsame
  · exact ⟨fun _ _ => hdropped, fun _ ht => by simp [hset] at ht⟩
  · exact ⟨fun _ ht => by simp [hclear] at ht, fun _ _ => hcause⟩

end Sys2Proof.Proofs
end

section
/-! The register map read as a table, and bytes and words of HBUF (spec/10_state.md R22, R36, R37; 20_memory.md R67,
R69). -/

namespace Sys2Proof.Machine

/-! ### The map -/

theorem lookup_of_mem_registerMap :
    ∀ row ∈ registerMap, row.1 % 4 = 0 ∧ row.1 < hbufBase ∧ registerMap.lookup row.1 = some row.2 := by decide

/-- Each row of the table is the location at its offset, in every build (10_state.md R22). -/
theorem locate_of_mem_registerMap (b : Build) {row : Nat × Loc} (h : row ∈ registerMap) :
    locate b (BitVec.ofNat 13 row.1) = some row.2 := by
  obtain ⟨halign, hlow, hlookup⟩ := lookup_of_mem_registerMap row h
  have hoff : (BitVec.ofNat 13 row.1).toNat = row.1 :=
    (BitVec.toNat_ofNat ..).trans (Nat.mod_eq_of_lt (Nat.lt_trans hlow (by decide)))
  rw [locate, hoff, if_neg (by omega), if_pos hlow, hlookup]

/-- HBUF word `j` is at `0x1000 + 4j`, inside the buffer of the build (10_state.md R22, R37). -/
theorem locate_hbufWord {b : Build} {off : BitVec 13} {j : Nat} (hoff : off.toNat = 0x1000 + 4 * j)
    (hj : 4 * j < b.hbufSize) : locate b off = some (.hbuf j) := by
  have hbase : hbufBase = 0x1000 := rfl
  have hword : (off.toNat - hbufBase) / 4 = j := by omega
  rw [locate, if_neg (by omega), if_neg (by omega), if_pos (by omega), hword]

/-! ### Words and their bytes -/

theorem leNat_lt (l : List Byte) : leNat l < 256 ^ l.length := by
  induction l with
  | nil => exact Nat.one_pos
  | cons b l ih =>
    have := b.isLt
    rw [leNat, List.length_cons, Nat.pow_succ]
    omega

/-- Byte `k` of a little-endian number is the `k`-th of the string (00_scope.md R12). -/
theorem leNat_div_mod {l : List Byte} {k : Nat} {b : Byte} (h : l[k]? = some b) :
    leNat l / 256 ^ k % 256 = b.toNat := by
  induction l generalizing k with
  | nil => cases h
  | cons c l ih =>
    have hc := c.isLt
    cases k with
    | zero =>
      obtain rfl : c = b := by simpa using h
      rw [leNat]
      omega
    | succ k =>
      have hdiv : (c.toNat + 256 * leNat l) / 256 = leNat l := by omega
      rw [leNat, Nat.pow_succ', ← Nat.div_div_eq_div_mul, hdiv]
      exact ih (by simpa using h)

/-- Byte `k` of the little-endian word at the start of a string (00_scope.md R12). -/
theorem extractLsb'_le32 {l : List Byte} {k : Nat} {b : Byte} (hk : k < 4) (h : l[k]? = some b) :
    (le32 l 0).extractLsb' (8 * k) 8 = b := by
  have hb := leNat_div_mod (l := l.take 4) (by rwa [List.getElem?_take_of_lt hk])
  have hlt : leNat (l.take 4) < 2 ^ 32 :=
    Nat.lt_of_lt_of_le (leNat_lt _) (Nat.pow_le_pow_right (n := 256) (by decide) (List.length_take_le 4 l))
  refine BitVec.eq_of_toNat_eq ?_
  rw [BitVec.extractLsb'_toNat, le32, List.drop_zero, BitVec.toNat_ofNat, Nat.mod_eq_of_lt hlt,
    Nat.shiftRight_eq_div_pow, Nat.pow_mul]
  exact hb

/-- A word is its four bytes. -/
theorem word_eq_of_bytes {x y : Word32} (h : ∀ k, k < 4 → x.extractLsb' (8 * k) 8 = y.extractLsb' (8 * k) 8) :
    x = y := by
  refine BitVec.eq_of_getLsbD_eq fun i hi => ?_
  have hbit := congrArg (BitVec.getLsbD · (i % 8)) (h (i / 8) (by omega))
  have hpos : 8 * (i / 8) + i % 8 = i := Nat.div_add_mod i 8
  have hlt : i % 8 < 8 := Nat.mod_lt _ (by decide)
  simpa [hpos, hlt] using hbit

/-- A word read from its own bytes (00_scope.md R12). -/
theorem le32_bytesLE32 (v : Word32) : le32 (bytesLE32 v) 0 = v :=
  word_eq_of_bytes fun _ hk => extractLsb'_le32 hk (getElem?_bytesLE32 v hk)

theorem bytesLE32_append (b0 b1 b2 b3 : Byte) : bytesLE32 (b3 ++ b2 ++ b1 ++ b0) = [b0, b1, b2, b3] := by
  refine congrArg₂ _ ?_ (congrArg₂ _ ?_ (congrArg₂ _ ?_ (congrArg₂ _ ?_ rfl)))
  all_goals
    refine BitVec.eq_of_getLsbD_eq fun i hi => ?_
    simp only [BitVec.getLsbD_extractLsb', BitVec.getLsbD_append]
    interval_cases i <;> simp

end Sys2Proof.Machine
end

section
/-! What a host access does at each location: reads, writes of the operand registers, and HBUF words
(spec/20_memory.md R65, R67, R69; 10_state.md R22 to R37). -/

namespace Sys2Proof.Machine

/-! ### Reads -/

/-- The inputs, the bus answer and the reports are no location: a read returns the same without them. -/
@[simp] theorem State.readLoc_beginStep (s : State) (rest : List Event) (l : Loc) :
    (s.beginStep rest).readLoc l = s.readLoc l := by
  cases l <;> rfl

@[simp] theorem State.drawsAfterRead_beginStep (s : State) (rest : List Event) (l : Loc) :
    (s.beginStep rest).drawsAfterRead l = s.drawsAfterRead l := by
  cases l <;> rfl

/-- A 32-bit read changes the bus answer and the draw counter alone (20_memory.md R65; log entry 4). -/
theorem step_read_eq {s : State} {rest : List Event} {off : BitVec 13} {l : Loc}
    (he : s.events = .host (.read .word off) :: rest) (hl : locate s.build off = some l) :
    step s = .next { s with
      events := rest, response := some ⟨.okay, s.readLoc l⟩, hostFault := none, draws := s.drawsAfterRead l } := by
  rw [step_read he hl, hostRead, State.readLoc_beginStep, State.drawsAfterRead_beginStep]
  rfl

/-- A read that draws no free value leaves the draw counter too (log entry 4). -/
theorem step_read_of_no_draw {s : State} {rest : List Event} {off : BitVec 13} {l : Loc}
    (he : s.events = .host (.read .word off) :: rest) (hl : locate s.build off = some l)
    (hd : s.drawsAfterRead l = s.draws) :
    step s = .next { s with events := rest, response := some ⟨.okay, s.readLoc l⟩, hostFault := none } := by
  rw [step_read_eq he hl, hd]

/-- Bytes that all hold a value are read as they are, and nothing is drawn (20_memory.md R67). -/
theorem readBytes_four {m : Memory} {a : Nat} {b0 b1 b2 b3 : Byte} (h0 : m.read a = some b0)
    (h1 : m.read (a + 1) = some b1) (h2 : m.read (a + 2) = some b2) (h3 : m.read (a + 3) = some b3) :
    m.readBytes a 4 = [b0, b1, b2, b3].map some := by
  simp [Memory.readBytes, List.range_succ, h0, h1, h2, h3]

/-- A read of an HBUF word whose bytes all hold a value draws nothing (log entry 4). -/
theorem drawsAfterRead_hbuf_of_written {s : State} {j : Nat} (h : ∀ k, k < 4 → s.hbuf.read (4 * j + k) ≠ none) :
    s.drawsAfterRead (.hbuf j) = s.draws := by
  refine if_pos (List.all_eq_true.2 fun b hb => ?_)
  obtain ⟨k, hk, rfl⟩ := List.mem_map.1 hb
  exact Option.isSome_iff_ne_none.2 (h k (List.mem_range.1 hk))

/-- Every written byte stands in its place of the HBUF word that a read returns (20_memory.md R67). -/
theorem extractLsb'_hbufWord {s : State} {j k : Nat} {b : Byte} (hk : k < 4) (h : s.hbuf.read (4 * j + k) = some b) :
    (s.hbufWord j).extractLsb' (8 * k) 8 = b := by
  refine extractLsb'_le32 hk (getElem?_fillFree _ _ k b ?_)
  simp [Memory.readBytes, hk, h]

/-- An HBUF word that has been written in full reads as its four bytes, least significant first (20_memory.md R67). -/
theorem hbufWord_of_readBytes {s : State} {j : Nat} {v : Word32}
    (h : s.hbuf.readBytes (4 * j) 4 = (bytesLE32 v).map some) : s.hbufWord j = v := by
  rw [State.hbufWord, h, fillFree_map_some, le32_bytesLE32]

/-- EDGE_MASK reads as the low word and the high word of `2^EDGE_BITS − 1` (10_state.md R30, R36). -/
theorem getHalf_edgeMask (eb : BitVec 6) :
    getHalf (edgeMask eb) .lo = BitVec.ofNat 32 (2 ^ eb.toNat - 1)
    ∧ getHalf (edgeMask eb) .hi = BitVec.ofNat 32 ((2 ^ eb.toNat - 1) / 2 ^ 32) := by
  constructor <;> refine BitVec.eq_of_toNat_eq ?_ <;>
    simp [getHalf, BitVec.extractLsb'_toNat, toNat_edgeMask, Nat.shiftRight_eq_div_pow]

/-- The values of the map below HBUF are what its locations read as (10_state.md R22 to R34). -/
theorem State.registerValues_eq_map (s : State) :
    s.registerValues = registerMap.map fun row => (BitVec.ofNat 13 row.1, s.readLoc row.2) := by
  obtain ⟨hlo, hhi⟩ := getHalf_edgeMask s.edgeBits
  rw [State.registerValues, ← hlo, ← hhi]
  rfl

/-- No register draws a free value (log entry 4). -/
theorem State.drawsAfterRead_of_mem_registerMap (s : State) {row : Nat × Loc} (h : row ∈ registerMap) :
    s.drawsAfterRead row.2 = s.draws := by
  have hnot : ∀ row ∈ registerMap, ∀ j, row.2 ≠ .hbuf j := by
    simp [registerMap]
  cases hl : row.2 with
  | hbuf j => exact absurd hl (hnot row h j)
  | _ => rfl

/-! ### STATUS -/

theorem statusWord_errcode (s : State) : s.statusWord.extractLsb' 4 4 = s.errcode := by
  refine BitVec.eq_of_getLsbD_eq fun i hi => ?_
  simp only [State.statusWord, BitVec.getLsbD_append, BitVec.getLsbD_extractLsb']
  interval_cases i <;> simp

theorem statusWord_reserved (s : State) : s.statusWord.extractLsb' 8 24 = 0 := by
  refine BitVec.eq_of_getLsbD_eq fun i hi => ?_
  simp only [State.statusWord, BitVec.getLsbD_append, BitVec.getLsbD_extractLsb']
  interval_cases i <;> simp

/-! ### Writes -/

/-- A 32-bit write while IDLE to a location other than CMD and CTRL changes that location, the input and the bus answer
(20_memory.md R69). -/
theorem step_write_eq {s : State} {rest : List Event} {off : BitVec 13} {v : Word32} {l : Loc} (hp : s.phase = .idle)
    (he : s.events = .host (.write .word off v) :: rest) (hl : locate s.build off = some l) (hcmd : l ≠ .cmd)
    (hctrl : l ≠ .ctrl) :
    step s = .next { s.writeLoc l v with events := rest, response := some ⟨.okay, 0⟩, hostFault := none } := by
  rw [step_write he hl, hostWrite_of_writable (s := s.beginStep rest) off v hcmd (.inl hp)]
  cases l with
  | ctrl => exact absurd rfl hctrl
  | _ => rfl

/-- The operand registers of the map: those that are locked while BUSY, CMD excepted (10_state.md R22, R27 to R32). -/
def operandRows : List (Nat × Loc) := registerMap.filter fun row => row.2.busyLocked && row.2 != .cmd

/-- The listed states are those that the writes of the operand registers leave (10_state.md R27 to R32, R36). -/
theorem State.registerWrites_eq_map (s : State) (v : Word32) :
    s.registerWrites v = operandRows.map fun row => (BitVec.ofNat 13 row.1, s.writeLoc row.2 v) := rfl

theorem mem_registerMap_of_mem_operandRows {row : Nat × Loc} (h : row ∈ operandRows) :
    row ∈ registerMap ∧ row.2 ≠ .cmd ∧ row.2 ≠ .ctrl := by
  obtain ⟨hmem, hrow⟩ := List.mem_filter.1 h
  obtain ⟨hb, hcmd⟩ := Bool.and_eq_true_iff.1 hrow
  exact ⟨hmem, bne_iff_ne.1 hcmd, fun hctrl => by simp [hctrl, Loc.busyLocked] at hb⟩

theorem getHalf_setHalf_other (v : Word64) (x : Word32) {h h' : Half} (hne : h' ≠ h) :
    getHalf (setHalf v h x) h' = getHalf v h' := by
  cases h <;> cases h' <;> simp at hne ⊢

/-- A write of one key half leaves the other half and the other key words (10_state.md R27, R36). -/
theorem readLoc_key_writeLoc_other (s : State) (v : Word32) {j j' : Fin 4} {h h' : Half} (hne : (j', h') ≠ (j, h)) :
    (s.writeLoc (.key j h) v).readLoc (.key j' h') = s.readLoc (.key j' h') := by
  change getHalf ((s.keys.set j (setHalf (s.keys.get j) h v)).get j') h' = getHalf (s.keys.get j') h'
  by_cases hj : j' = j
  · subst hj
    rw [Keys.get_set_same, getHalf_setHalf_other _ _ fun hh => hne (by rw [hh])]
  · rw [Keys.get_set_other _ _ hj]

theorem readBytes_writeWord (m : Memory) (j : Nat) (v : Word32) :
    (m.writeWord j v).readBytes (4 * j) 4 = (bytesLE32 v).map some := by
  refine readBytes_four ?_ ?_ ?_ ?_ <;> simp [Memory.read_writeWord]

end Sys2Proof.Machine
end

section
/-! The obligations about the register map, reads and writes (spec/10_state.md R22 to R37; 20_memory.md R65 to R69). -/

namespace Sys2Proof.Proofs

open Sys2Proof.Machine

/-- Settles O35: the rows of the table give the registers, the arithmetic of the offset the HBUF words. -/
theorem theRegisterMap : Obligations.TheRegisterMap := by
  intro b
  refine ⟨?rows, fun j => ?keys, fun w => ?digest, ⟨rfl, rfl⟩, ⟨rfl, rfl⟩, ⟨rfl, rfl⟩, fun j hj => ?hbuf,
    fun off => (locate_eq_none_iff b off).symm, fun _ _ => ⟨rfl, rfl⟩, fun _ => ⟨rfl, rfl⟩, fun _ => ⟨rfl, rfl⟩,
    fun _ => ⟨rfl, rfl⟩, fun _ => ⟨rfl, rfl⟩, fun _ => ⟨rfl, rfl⟩⟩
  case rows =>
    simp only [List.forall_mem_cons]
    exact ⟨⟨rfl, rfl, rfl⟩, ⟨rfl, rfl, rfl⟩, ⟨rfl, rfl, rfl⟩, ⟨rfl, rfl, rfl⟩, ⟨rfl, rfl, rfl⟩, ⟨rfl, rfl, rfl⟩,
      ⟨rfl, rfl, rfl⟩, ⟨rfl, rfl, rfl⟩, nofun⟩
  case keys => fin_cases j <;> exact ⟨rfl, rfl⟩
  case digest => fin_cases w <;> rfl
  case hbuf =>
    obtain ⟨-, hmax, -⟩ := hbufSize_bounds b
    exact locate_hbufWord ((BitVec.toNat_ofNat ..).trans (Nat.mod_eq_of_lt (by omega))) hj

/-- Settles O38: an access that is a read gets a bus error or reads a location, and each register of the map reads as
its own value. -/
theorem readsHaveNoSideEffect : Obligations.ReadsHaveNoSideEffect := by
  refine ⟨fun s rest size off he => ?anyRead, fun s rest off d hd he => ?register⟩
  case anyRead =>
    rcases hostAccess_cases (.read size off) (s.beginStep rest) with
      ⟨hbad, hx⟩ | ⟨off', l, ha, hl, -⟩ | ⟨_, _, _, ha, -⟩
    · refine ⟨⟨.error, 0⟩, some (.busError size off), s.draws, (step_host he).trans hx, fun _ => rfl, ?_⟩
      intro j hsize hl
      cases (hbad.resolve_left (not_not_intro hsize)).symm.trans hl
    · obtain ⟨rfl, rfl⟩ := Access.read.inj ha
      refine ⟨_, none, _, step_read_eq he hl, fun hw => ?_, fun j _ hj => ?_⟩
      · cases l with
        | hbuf j => exact drawsAfterRead_hbuf_of_written (hw j hl)
        | _ => rfl
      · obtain rfl := Option.some.inj (hl.symm.trans hj)
        exact ⟨rfl, rfl, fun k b hk hb => extractLsb'_hbufWord hk hb⟩
    · cases ha
  case register =>
    rw [State.registerValues_eq_map] at hd
    obtain ⟨row, hrow, hpair⟩ := List.mem_map.1 hd
    obtain ⟨rfl, rfl⟩ := Prod.mk.inj hpair
    exact step_read_of_no_draw he (locate_of_mem_registerMap _ hrow) (s.drawsAfterRead_of_mem_registerMap hrow)

/-- Settles O39: the write of an operand register is the write of its location, and a read of a location after its write
returns what its width keeps of the word. -/
theorem registerWritesReadBack : Obligations.RegisterWritesReadBack := by
  refine ⟨fun s rest off v t hp he ht => ?step, fun s v => ⟨fun j h => ⟨?key, fun j' h' hne => ?otherKey⟩,
    fun h => ⟨?nonce, fun h' hne => ?otherNonce⟩, ?edgeBits, ?hlen, rfl, fun j => ?hbuf⟩⟩
  case step =>
    rw [State.registerWrites_eq_map] at ht
    obtain ⟨row, hrow, hpair⟩ := List.mem_map.1 ht
    obtain ⟨rfl, rfl⟩ := Prod.mk.inj hpair
    obtain ⟨hmem, hcmd, hctrl⟩ := mem_registerMap_of_mem_operandRows hrow
    exact step_write_eq hp he (locate_of_mem_registerMap _ hmem) hcmd hctrl
  case key =>
    change getHalf ((s.keys.set j (setHalf (s.keys.get j) h v)).get j) h = v
    rw [Keys.get_set_same, getHalf_setHalf_same]
  case otherKey => exact readLoc_key_writeLoc_other s v hne
  case nonce => exact getHalf_setHalf_same s.nonce h v
  case otherNonce => exact getHalf_setHalf_other s.nonce v hne
  case edgeBits =>
    change (v.extractLsb' 0 6).setWidth 32 = _
    refine BitVec.eq_of_toNat_eq ?_
    simp only [BitVec.toNat_setWidth, BitVec.extractLsb'_toNat, BitVec.toNat_ofNat, Nat.shiftRight_zero]
  case hlen =>
    change (v.extractLsb' 0 16).setWidth 32 = _
    refine BitVec.eq_of_toNat_eq ?_
    simp only [BitVec.toNat_setWidth, BitVec.extractLsb'_toNat, BitVec.toNat_ofNat, Nat.shiftRight_zero]
  case hbuf => exact hbufWord_of_readBytes (readBytes_writeWord s.hbuf j v)

/-- Settles O40: the step is the write of word `j`, which reaches its four bytes alone. -/
theorem hbufWordWriteStoresFourBytes : Obligations.HbufWordWriteStoresFourBytes := by
  intro s rest off v j hp he hoff hj
  refine ⟨s.hbuf.writeWord j v, step_write_eq hp he (locate_hbufWord hoff hj) nofun nofun, fun k hk => ?_,
    fun a ha => ?_⟩
  · rw [Memory.read_writeWord]
    interval_cases k <;> simp
  · rw [Memory.read_writeWord, if_neg (by omega), if_neg (by omega), if_neg (by omega), if_neg (by omega)]

/-- Settles O41: the four bytes are written, so the word is made of them and nothing is drawn. -/
theorem hbufWordReadReturnsFourBytes : Obligations.HbufWordReadReturnsFourBytes := by
  intro s rest off j b0 b1 b2 b3 he hoff hj h0 h1 h2 h3
  have hbytes := readBytes_four h0 h1 h2 h3
  have hdraws : s.drawsAfterRead (.hbuf j) = s.draws := by
    rw [State.drawsAfterRead, hbytes, drawsAfter_map_some]
  have hword : s.readLoc (.hbuf j) = b3 ++ b2 ++ b1 ++ b0 :=
    hbufWord_of_readBytes (hbytes.trans (by rw [bytesLE32_append]))
  rw [step_read_of_no_draw he (locate_hbufWord hoff hj) hdraws, hword]

/-- Settles O42: the fields of STATUS lie side by side, and a write to it is performed in either phase. -/
theorem statusFieldsAndWriteOneToClear : Obligations.StatusFieldsAndWriteOneToClear := by
  intro s
  refine ⟨⟨?busy, ?done, ?err, ?werr, statusWord_errcode s, statusWord_reserved s⟩,
    fun rest v he => step_write_status he⟩
  all_goals
    change s.statusWord.getLsbD _ = _
    simp only [State.statusWord, BitVec.getLsbD_append]
    simp

end Sys2Proof.Proofs
end

section
/-! Two agents around a completion: the engine's turn next to a host access (spec/60_exceptions.md R225;
70_reset_and_hazards.md R265, R267). -/

namespace Sys2Proof.Machine

theorem runSteps_two {s t : State} (h : step s = .next t) : runSteps 2 s = step t :=
  (runSteps_succ_of_step 1 h).trans (runSteps_one t)

/-- The completion of the command in flight, from a state with the invariant (40_commands.md R115; log entry 9). -/
theorem State.Inv.step_completes {s : State} {snap : Snapshot} {rest : List Event} (hinv : s.Inv)
    (hp : s.phase = .busy snap) (he : s.EngineNext rest) :
    ∃ t, step s = .next t ∧ Completion (s.beginStep rest) t := by
  obtain ⟨i, hd⟩ := hinv.decode_snapshot hp
  exact Machine.step_completes he hp hd

/-- An engine's turn after a step that left the command in flight completes it (60_exceptions.md R225). -/
theorem runSteps_two_completes {s u : State} {snap : Snapshot} {rest : List Event} (hinv : s.Inv)
    (hu : step s = .next u) (hp : u.phase = .busy snap) (he : u.EngineNext rest) :
    ∃ t, runSteps 2 s = .next t ∧ Completion (u.beginStep rest) t := by
  obtain ⟨t, ht, hc⟩ := (step_preserves_inv hinv hu).step_completes hp he
  exact ⟨t, (runSteps_two hu).trans ht, hc⟩

/-! ### Torn reads -/

theorem Keys.get_seedKeys (d : List Byte) (j : Fin 4) : (seedKeys d).get j = le64 d (8 * j.val) := by
  fin_cases j <;> rfl

/-- Two reads that straddle a completion: the first answers from the state before it, the second from the state that the
command leaves (70_reset_and_hazards.md R265). -/
theorem runSteps_torn_read {s v : State} {snap : Snapshot} {i : Instr} {off off' : BitVec 13} {l l' : Loc}
    {d d' : Word32} {rest : List Event} (hp : s.phase = .busy snap) (hdec : decode snap.w = .ok i)
    (he : s.events = .host (.read .word off) :: .engine :: .host (.read .word off') :: rest)
    (hl : locate s.build off = some l) (hl' : locate s.build off' = some l') (hdraw : s.drawsAfterRead l = s.draws)
    (hx : exec i { s with events := .host (.read .word off') :: rest, response := none, hostFault := none } = .next v)
    (hd : s.readLoc l = d) (hd' : v.readLoc l' = d') :
    ∃ t u, runSteps 1 s = .next t ∧ t.response = some ⟨.okay, d⟩
      ∧ runSteps 3 s = .next u ∧ u.response = some ⟨.okay, d'⟩ := by
  subst hd hd'
  have hread := step_read_of_no_draw he hl hdraw
  have hengine := (step_engine_of_busy (s := { s with
    events := .engine :: .host (.read .word off') :: rest, response := some ⟨.okay, s.readLoc l⟩, hostFault := none })
    (.inl rfl) hp hdec).trans hx
  have hc := completion_of_exec (s := { s with
    events := .host (.read .word off') :: rest, response := none, hostFault := none }) hp hx
  obtain ⟨u, hu, hresponse⟩ : ∃ u, step v = .next u ∧ u.response = some ⟨.okay, v.readLoc l'⟩ :=
    ⟨_, step_read_eq hc.events (by rwa [hc.build]), rfl⟩
  refine ⟨_, u, (runSteps_one s).trans hread, rfl, ?_, hresponse⟩
  rw [runSteps_succ_of_step 2 hread, runSteps_two hengine, hu]

/-- The key half that a read returns after a SEED with the digest `d` (44_graphparams.md R202; 10_state.md R36). -/
theorem readLoc_key_completeSeed (d : List Byte) (s : State) (j : Fin 4) (h : Half) :
    (s.completeSeed d).readLoc (.key j h) = getHalf (le64 d (8 * j.val)) h :=
  congrArg (getHalf · h) (Keys.get_seedKeys d j)

theorem locate_key_lo {b : Build} {off : BitVec 13} {j : Fin 4} (h : off.toNat = 0x020 + 8 * j.val) :
    locate b off = some (.key j .lo) := by
  obtain rfl : off = BitVec.ofNat 13 (0x020 + 8 * j.val) := by rw [← h, BitVec.ofNat_toNat, BitVec.setWidth_eq]
  fin_cases j <;> rfl

theorem locate_key_hi {b : Build} {off : BitVec 13} {j : Fin 4} (h : off.toNat = 0x024 + 8 * j.val) :
    locate b off = some (.key j .hi) := by
  obtain rfl : off = BitVec.ofNat 13 (0x024 + 8 * j.val) := by rw [← h, BitVec.ofNat_toNat, BitVec.setWidth_eq]
  fin_cases j <;> rfl

end Sys2Proof.Machine
end

section
/-! The obligations about races with a completion (spec/60_exceptions.md R225; 70_reset_and_hazards.md R265, R267). -/

namespace Sys2Proof.Proofs

open Sys2Proof.Machine

/-- Settles O44: while BUSY the write is dropped and the command stays in flight; after the completion the engine is
IDLE and the write is an acceptance. -/
theorem racingCommandWrite : Obligations.RacingCommandWrite := by
  intro s snap w rest hinv hp
  refine ⟨fun he => ?writeFirst, fun he => ?completionFirst⟩
  case writeFirst =>
    have hbusy : (s.beginStep (.engine :: rest)).phase.isBusy = true := by simp [hp]
    have hdrop := (step_write he (locate_cmd _)).trans (hostWrite_of_busyLocked _ w hbusy rfl)
    obtain ⟨t, ht, hc⟩ := runSteps_two_completes hinv hdrop hp (.inl rfl)
    exact ⟨t, ht, hc.phase, hc.cmd, hc.werr, hc.done⟩
  case completionFirst =>
    obtain ⟨u, hu, hc⟩ := hinv.step_completes hp (.inl he)
    obtain ⟨t, ha, hcmd, hwerr, -⟩ := acceptCommand_idle (s := (u.beginStep rest).respondOkay 0) w hc.phase
    exact ⟨t, (runSteps_two hu).trans ((step_write_cmd hc.phase hc.events).trans ha), hcmd, hwerr.trans hc.werr⟩

/-- Settles O45: the write clears the DONE that stands when it comes, and the completion sets it. -/
theorem racingDoneClear : Obligations.RacingDoneClear := by
  intro s snap v rest hinv hp hv
  refine ⟨fun he => ?writeFirst, fun he => ?completionFirst⟩
  case writeFirst =>
    obtain ⟨t, ht, hc⟩ := runSteps_two_completes hinv (step_write_status he) hp (.inl rfl)
    exact ⟨t, ht, hc.phase, hc.done⟩
  case completionFirst =>
    obtain ⟨u, hu, hc⟩ := hinv.step_completes hp (.inl he)
    exact ⟨_, (runSteps_two hu).trans (step_write_status hc.events), hc.phase, by simp [hv]⟩

/-- Settles O46: after the reset the engine's turn finds IDLE, and after the completion the reset clears its results. -/
theorem racingSoftReset : Obligations.RacingSoftReset := by
  intro s snap v rest hinv hp hv
  refine ⟨fun he => ?resetFirst, fun he => ?completionFirst⟩
  case resetFirst => exact (runSteps_two (step_write_ctrl_of_srst he hv)).trans (step_engine (.inl rfl))
  case completionFirst =>
    obtain ⟨u, hu, hc⟩ := hinv.step_completes hp (.inl he)
    have hbuild : u.build = s.build := hc.build
    refine ⟨u.draws, (runSteps_two hu).trans ?_⟩
    rw [step_write_ctrl_of_srst hc.events hv, hbuild]

/-- Settles O47: the first read answers a half of the old value; the completion writes the register whole, and the
second read answers the other half of the new one. -/
theorem tornReadOfTheResult : Obligations.TornReadOfTheResult := by
  refine ⟨fun s snap i r rest hp hd hr => ⟨fun he => ?outLow, fun he => ?outHigh⟩,
    fun s snap ne m j lo hi rest hp hd hm hlo hhi => ⟨fun he => ?keyLow, fun he => ?keyHigh⟩⟩
  case outLow => exact runSteps_torn_read hp hd he rfl rfl rfl (exec_of_snapshotOut hp hr) rfl rfl
  case outHigh => exact runSteps_torn_read hp hd he rfl rfl rfl (exec_of_snapshotOut hp hr) rfl rfl
  case keyLow =>
    exact runSteps_torn_read hp hd he (locate_key_lo hlo) (locate_key_hi hhi) rfl (exec_seed_of_written hp hm) rfl
      (readLoc_key_completeSeed ..)
  case keyHigh =>
    exact runSteps_torn_read hp hd he (locate_key_hi hhi) (locate_key_lo hlo) rfl (exec_seed_of_written hp hm) rfl
      (readLoc_key_completeSeed ..)

end Sys2Proof.Proofs
end

section
/-! The hash functions: the chain of a block, the XOR span, the endpoint, byte orders and the padding of the digests
(spec/41_keyedhash.md R130; 42_blockhash.md R150, R151; 43_digest.md R171 to R183; 44_graphparams.md R202, R204). -/

namespace Sys2Proof.Machine

/-! ### The chain of a block -/

theorem toNat_blockBase (nonce : Word64) : (blockBase nonce).toNat = nonce.toNat - nonce.toNat % 64 := by
  have hmask : ∀ i, i < 64 → (0xFFFFFFFFFFFFFFC0 : Word64).getLsbD i = decide (6 ≤ i) := by decide
  have hshift : blockBase nonce = (nonce >>> 6) <<< 6 := by
    refine BitVec.eq_of_getLsbD_eq fun i hi => ?_
    rw [blockBase, BitVec.getLsbD_and, hmask i hi, BitVec.getLsbD_shiftLeft, BitVec.getLsbD_ushiftRight]
    by_cases h6 : 6 ≤ i
    · have hpos : 6 + (i - 6) = i := by omega
      simp [h6, hi, hpos]
    · simp [h6]
  have hlt := nonce.isLt
  rw [hshift, BitVec.toNat_shiftLeft, BitVec.toNat_ushiftRight, Nat.shiftRight_eq_div_pow, Nat.shiftLeft_eq]
  omega

theorem blockIndex_eq_mod (nonce : Word64) : blockIndex nonce = nonce.toNat % 64 :=
  (BitVec.toNat_and ..).trans (Nat.and_two_pow_sub_one_eq_mod nonce.toNat 6)

/-- The states carried through the chained hashes from `nonce` up, before each of them (42_blockhash.md R150). -/
def chainState (re : Nat) (nonce : Word64) (v : SipState) : Nat → SipState
  | 0 => v
  | i + 1 => sipCore (chainState re nonce v i) (nonce + BitVec.ofNat 64 i) re

theorem chainState_succ (re : Nat) (nonce : Word64) (v : SipState) (i : Nat) :
    chainState re nonce v (i + 1) = chainState re (nonce + 1) (sipCore v nonce re) i := by
  induction i with
  | zero => exact congrArg (sipCore v · re) (BitVec.add_zero nonce)
  | succ i ih =>
    have hnonce : nonce + BitVec.ofNat 64 (i + 1) = nonce + 1 + BitVec.ofNat 64 i := by
      rw [BitVec.add_assoc, BitVec.add_comm 1, BitVec.ofNat_add]
      rfl
    rw [chainState, ih, hnonce]
    rfl

theorem length_chainHashes (re count : Nat) (nonce : Word64) (v : SipState) :
    (chainHashes re count nonce v).length = count := by
  induction count generalizing nonce v with
  | zero => rfl
  | succ count ih => exact congrArg Nat.succ (ih _ _)

/-- Each chained hash is the output of the state after it (42_blockhash.md R150). -/
theorem getElem?_chainHashes (re : Nat) {count i : Nat} (nonce : Word64) (v : SipState) (h : i < count) :
    (chainHashes re count nonce v)[i]? = some (sipLanes (chainState re nonce v (i + 1))) := by
  induction count generalizing nonce v i with
  | zero => omega
  | succ count ih =>
    rw [chainState_succ]
    cases i with
    | zero => rfl
    | succ i => exact ih (nonce + 1) (sipCore v nonce re) (by omega)

theorem length_blockBuffer (k : Keys) (nonce : Word64) (re : Nat) : (blockBuffer k nonce re).length = 64 :=
  length_chainHashes ..

/-! ### The XOR span -/

theorem foldl_xor_eq_foldr (l : List Word64) (x : Word64) : l.foldl (· ^^^ ·) x = (x :: l).foldr (· ^^^ ·) 0 := by
  induction l generalizing x with
  | nil => exact (BitVec.xor_zero).symm
  | cons y l ih => rw [List.foldl_cons, ih, List.foldr_cons, List.foldr_cons, List.foldr_cons, BitVec.xor_assoc]

theorem blockIndex_lt (nonce : Word64) : blockIndex nonce < 64 := by
  rw [blockIndex_eq_mod]
  exact Nat.mod_lt _ (by decide)

/-- With `xor_all` the span takes in every later hash (42_blockhash.md R151). -/
theorem blockHash_true (k : Keys) (nonce : Word64) (re : Nat) :
    blockHash k nonce re true = ((blockBuffer k nonce re).drop (blockIndex nonce)).foldr (· ^^^ ·) 0 := by
  have hlt : blockIndex nonce < (blockBuffer k nonce re).length := by
    rw [length_blockBuffer]
    exact blockIndex_lt nonce
  rw [List.drop_eq_getElem_cons hlt, ← foldl_xor_eq_foldr, ← List.getD_eq_getElem _ 0 hlt]
  rfl

/-- Without `xor_all` the span is the last hash, unless the target is the last (42_blockhash.md R151; GK4). -/
theorem spanStart_false (ni : Nat) : spanStart ni false = if ni = 63 then 64 else 63 := by
  by_cases h : ni = 63 <;> simp [spanStart, h]

theorem blockHash_false_of_lt (k : Keys) (nonce : Word64) (re : Nat) (h : blockIndex nonce < 63) :
    blockHash k nonce re false
      = (blockBuffer k nonce re).getD (blockIndex nonce) 0 ^^^ (blockBuffer k nonce re).getD 63 0 := by
  have hlen := length_blockBuffer k nonce re
  have hlast : (blockBuffer k nonce re).drop 63 = [(blockBuffer k nonce re).getD 63 0] := by
    rw [List.drop_eq_getElem_cons (by omega), List.drop_eq_nil_of_le (by omega), ← List.getD_eq_getElem _ 0]
  simp only [blockHash, spanStart_false, if_neg (Nat.ne_of_lt h), hlast, List.foldl_cons, List.foldl_nil]

theorem blockHash_false_of_last (k : Keys) (nonce : Word64) (re : Nat) (h : blockIndex nonce = 63) :
    blockHash k nonce re false = (blockBuffer k nonce re).getD 63 0 := by
  have hnone : (blockBuffer k nonce re).drop 64 = [] := List.drop_eq_nil_of_le (by rw [length_blockBuffer])
  simp only [blockHash, spanStart_false, h, if_true, hnone, List.foldl_nil]

/-- At the last two indices both spans start at the same hash (42_blockhash.md R151). -/
theorem spanStart_false_eq_true {ni : Nat} (hlo : 62 ≤ ni) (hhi : ni < 64) :
    spanStart ni false = spanStart ni true := by
  interval_cases ni <;> rfl

/-! ### The endpoint -/

/-- The edge is doubled modulo 2^64, so its top bit is lost (44_graphparams.md R204). -/
theorem two_mul_add_two_pow_63 (edge : Word64) : 2 * (edge + 0x8000000000000000) = 2 * edge := by
  rw [BitVec.mul_add]
  exact BitVec.add_zero _

/-! ### Byte orders -/

theorem leNat_append (l l' : List Byte) : leNat (l ++ l') = leNat l + 256 ^ l.length * leNat l' := by
  induction l with
  | nil => simp [leNat]
  | cons b l ih =>
    rw [List.cons_append, leNat, leNat, ih, List.length_cons, Nat.pow_succ']
    ring

/-- Eight bytes are four and the four behind them, however short the string (00_scope.md R12). -/
theorem leNat_take_eight (l : List Byte) :
    leNat (l.take 8) = leNat (l.take 4) + 2 ^ 32 * leNat ((l.drop 4).take 4) := by
  rw [List.take_add (i := 4) (j := 4), leNat_append]
  rcases Nat.lt_or_ge l.length 4 with hshort | hlong
  · simp [List.drop_eq_nil_of_le (Nat.le_of_lt hshort), leNat]
  · have hpow : 256 ^ 4 = 2 ^ 32 := by norm_num
    rw [List.length_take, Nat.min_eq_left hlong, hpow]

/-- A 64-bit word is the two 32-bit words at its place, the later one high (00_scope.md R12). -/
theorem le64_eq_append (d : List Byte) (i : Nat) : le64 d i = le32 d (i + 4) ++ le32 d i := by
  have hlt : leNat ((d.drop i).take 4) < 2 ^ 32 :=
    Nat.lt_of_lt_of_le (leNat_lt _) (Nat.pow_le_pow_right (n := 256) (by decide) (List.length_take_le 4 _))
  refine BitVec.eq_of_toNat_eq ?_
  rw [BitVec.toNat_append, le64, le32, le32, BitVec.toNat_ofNat, BitVec.toNat_ofNat, BitVec.toNat_ofNat,
    leNat_take_eight, List.drop_drop, Nat.mod_eq_of_lt hlt, Nat.shiftLeft_eq, Nat.mul_comm _ (2 ^ 32),
    ← Nat.two_pow_add_eq_or_of_lt hlt]
  omega

/-! ### Lengths -/

theorem length_digest256 (alg : DigestAlg) (m : List Byte) : (digest256 alg m).length = 32 := by
  cases alg with
  | sha256 => simp [digest256, sha256, bytesBE32]
  | blake2b256 => simp [digest256, blake2b256, bytesLE64]

/-- The number of zero bytes in the padding of a message (43_digest.md R171). -/
def shaZeros (len : Nat) : Nat := (119 - len % 64) % 64

theorem shaPad_eq (m : List Byte) :
    shaPad m = m ++ [0x80] ++ List.replicate (shaZeros m.length) 0
      ++ (bytesLE64 (BitVec.ofNat 64 (8 * m.length))).reverse := rfl

/-- The zeros end 8 bytes short of a block, and no smaller number of them does (43_digest.md R171). -/
theorem shaZeros_least (len : Nat) :
    (len + 1 + shaZeros len) % 64 = 56 ∧ ∀ k < shaZeros len, (len + 1 + k) % 64 ≠ 56 := by
  unfold shaZeros
  refine ⟨by omega, fun k hk => by omega⟩

theorem length_shaPad (m : List Byte) : (shaPad m).length = 64 * ((m.length + 9 + 63) / 64) := by
  obtain ⟨hzeros, -⟩ := shaZeros_least m.length
  have hlt : shaZeros m.length < 64 := Nat.mod_lt _ (by decide)
  have hlen : (shaPad m).length = m.length + 1 + shaZeros m.length + 8 := by
    simp [shaPad_eq, bytesLE64]
    omega
  omega

end Sys2Proof.Machine
end

section
/-! The obligations about the hash functions (spec/42_blockhash.md R150, R151; 43_digest.md R170 to R183;
44_graphparams.md R202, R204). -/

namespace Sys2Proof.Proofs

open Sys2Proof.Machine

/-- Settles O48: the chain of states is `chainState`, and each hash is the output of the state after it. -/
theorem blockBufferChains : Obligations.BlockBufferChains := by
  intro k nonce re
  refine ⟨toNat_blockBase nonce, length_blockBuffer k nonce re, ?first, fun nonce' h => ?sameBlock,
    chainState re (blockBase nonce) (SipState.ofKeys k), rfl, fun i hi => ⟨rfl, getElem?_chainHashes re _ _ hi⟩⟩
  case first => rfl
  case sameBlock => rw [blockBuffer, h, blockBuffer]

/-- Settles O49: the span by where it starts, and the XOR of a span folded from either end. -/
theorem blockHashSpan : Obligations.BlockHashSpan := by
  intro k nonce re
  refine ⟨blockIndex_eq_mod nonce, blockHash_true k nonce re, blockHash_false_of_lt k nonce re,
    blockHash_false_of_last k nonce re, fun h => ?_⟩
  rw [blockHash, blockHash, spanStart_false_eq_true h (blockIndex_lt nonce)]

/-- Settles O50: the endpoint as a number is `nodeNumber`, or twice that plus UORV; the rest is its bound. -/
theorem sipnodeCornerCases : Obligations.SipnodeCornerCases := by
  intro k edge uorv sh eb
  have hlt := nodeNumber_lt k edge uorv eb
  have hshift := toNat_sipNode_shifted k edge uorv eb
  have huorv := uorv.toNat_lt
  refine ⟨?wrap, ?zeroPlain, ?zeroShifted, ?plainBound, ?shiftedBound, ?bitZero⟩
  case wrap => rw [sipNode, sipNode, two_mul_add_two_pow_63]
  case zeroPlain => exact BitVec.eq_of_toNat_eq ((toNat_sipNode_unshifted ..).trans (Nat.mod_one _))
  case zeroShifted =>
    refine BitVec.eq_of_toNat_eq ?_
    rw [toNat_sipNode_shifted, toNat_bit64, nodeNumber, show (0 : BitVec 6).toNat = 0 from rfl, Nat.pow_zero,
      Nat.mod_one]
    omega
  case plainBound => rwa [toNat_sipNode_unshifted]
  case shiftedBound =>
    rw [hshift, Nat.pow_succ]
    omega
  case bitZero =>
    rw [BitVec.getLsbD, hshift, Nat.testBit_zero]
    cases uorv <;> simp

/-- Settles O51: each key word is the two digest registers at its place. -/
theorem seedWordsAreDigestRegisterPairs : Obligations.SeedWordsAreDigestRegisterPairs :=
  fun d => ⟨le64_eq_append d 0, le64_eq_append d 8, le64_eq_append d 16, le64_eq_append d 24⟩

/-- Settles O52: eight words of four bytes, or four words of eight. -/
theorem digestsHaveThirtyTwoBytes : Obligations.DigestsHaveThirtyTwoBytes := length_digest256

/-- Settles O53: the padding is that of `shaPad` as written, with the least number of zeros. -/
theorem shaPaddingFillsWholeBlocks : Obligations.ShaPaddingFillsWholeBlocks :=
  fun m => ⟨length_shaPad m, shaZeros m.length, shaPad_eq m, shaZeros_least m.length⟩

/-- Settles O54: the count is the rounded-up quotient, and a block is padded to 16 words. -/
theorem blakeBlocksCoverTheMessage : Obligations.BlakeBlocksCoverTheMessage := by
  intro m
  unfold blakeBlocks
  refine ⟨by omega, by omega, fun hm => by omega, fun j => ?_⟩
  simp [blakeBlock]

end Sys2Proof.Proofs
end
